-- ==== Sys2Proof/Word.lean ====
section
/-! DEFINITION. The words, bytes and index types of the CORE (rules R13 to R15), and the value types of
the towers and points (rules R25, R26): coordinates as the spec writes them, lowest power first. -/

namespace Sys2Proof

/-- A command word or a host register: 32 bits (R13, R14). -/
abbrev Word := BitVec 32

/-- A byte of the exchange memory XMEM (R13). -/
abbrev Byte := BitVec 8

/-- A 7-bit cell index field: `rd`, `rs1` or `rs2` of a command word (R60, R90). -/
abbrev CellIdx := BitVec 7

/-- An integer-register index `0..7`: the low three bits of a 7-bit field whose upper bits are MBZ (R91). -/
abbrev KIdx := BitVec 3

/-- The 17-bit XMEM address field of formats M and MK (R90). -/
abbrev XAddr := BitVec 17

/-- A coefficient-bank index: bit 0 of `fn` (R60). -/
abbrev BankIdx := BitVec 1

/-- An element `c0 + c1 * x` of a quadratic extension (R180, R221, R240). -/
structure Quad (α : Type) where
  c0 : α
  c1 : α
deriving DecidableEq, Repr, Inhabited

/-- An element `c0 + c1 * x + c2 * x^2` of a cubic extension (R200, R220). -/
structure Cub (α : Type) where
  c0 : α
  c1 : α
  c2 : α
deriving DecidableEq, Repr, Inhabited

/-- A canonical value of `Fp`: an integer meant to lie in `[0, p)` (R140). -/
abbrev Fp := Nat

/-- `Fp2 = Fp[u]/(u^2 - NR2)` (R180). -/
abbrev F2 := Quad Fp

/-- `Fp3 = Fp[u]/(u^3 - NR3)` (R200). -/
abbrev F3 := Cub Fp

/-- Fp6 as 3-over-2 (R220). -/
abbrev F6Over2 := Cub F2

/-- Fp6 as 2-over-3 (R221). -/
abbrev F6Over3 := Quad F3

/-- `Fp12 = Fp6[w]/(w^2 - NR12)` over the 3-over-2 Fp6 (R240). -/
abbrev F12 := Quad F6Over2

/-- An affine point, always finite (R26). -/
structure Aff (α : Type) where
  x : α
  y : α
deriving DecidableEq, Repr, Inhabited

/-- A point triple: Jacobian in the group commands (R26, R260), homogeneous projective for the
running point of the pairing precomputation (R320). -/
structure Pt (α : Type) where
  x : α
  y : α
  z : α
deriving DecidableEq, Repr, Inhabited

end Sys2Proof
end

