-- ==== Sys2Proof/Syntax.lean ====
section
/-! DEFINITION. The command set, whole: one constructor per row of the opcode map (rule R94), carrying the
operand fields of its format (rule R91) as they are encoded. -/

namespace Sys2Proof

/-- A decoded command of the CORE command set, version 1 (R94). Operands are in assembler order (R97). -/
inductive Instr where
  /-- `NOP`, opcode 0x00, format N (R121). -/
  | nop
  /-- `LDFE fd, @addr`, opcode 0x01, format M (R122). -/
  | ldfe (f : CellIdx) (addr : XAddr)
  /-- `STFE fs, @addr`, opcode 0x02, format M (R123). -/
  | stfe (f : CellIdx) (addr : XAddr)
  /-- `LDRAW fd, @addr`, opcode 0x03, format M (R124). -/
  | ldraw (f : CellIdx) (addr : XAddr)
  /-- `STRAW fs, @addr`, opcode 0x04, format M (R125). -/
  | straw (f : CellIdx) (addr : XAddr)
  /-- `LDK k, @addr`, opcode 0x05, format MK (R126). -/
  | ldk (k : KIdx) (addr : XAddr)
  /-- `STK k, @addr`, opcode 0x06, format MK (R127). -/
  | stk (k : KIdx) (addr : XAddr)
  /-- `LDKI k, #imm17`, opcode 0x07, format MK (R128). -/
  | ldki (k : KIdx) (imm17 : BitVec 17)
  /-- `MOV fd, fs1, #cnt`, opcode 0x08, format RI (R129). -/
  | mov (rd : CellIdx) (rs1 : CellIdx) (cnt : BitVec 7)
  /-- `ZERO fd, #cnt`, opcode 0x09, format DI (R130). -/
  | zero (rd : CellIdx) (cnt : BitVec 7)
  /-- `ONE fd`, opcode 0x0A, format D (R131). -/
  | one (rd : CellIdx)
  /-- `MMUL fd, fs1, fs2`, opcode 0x10, format R3 (R144). -/
  | mmul (rd : CellIdx) (rs1 : CellIdx) (rs2 : CellIdx)
  /-- `BMUL fd, fs1, fs2`, opcode 0x11, format R3 (R145). -/
  | bmul (rd : CellIdx) (rs1 : CellIdx) (rs2 : CellIdx)
  /-- `TOMONT fd, fs1`, opcode 0x12, format R2 (R146). -/
  | tomont (rd : CellIdx) (rs1 : CellIdx)
  /-- `FROMMONT fd, fs1`, opcode 0x13, format R2 (R147). -/
  | frommont (rd : CellIdx) (rs1 : CellIdx)
  /-- `FADD fd, fs1, fs2`, opcode 0x20, format R3 (R148). -/
  | fadd (rd : CellIdx) (rs1 : CellIdx) (rs2 : CellIdx)
  /-- `FSUB fd, fs1, fs2`, opcode 0x21, format R3 (R149). -/
  | fsub (rd : CellIdx) (rs1 : CellIdx) (rs2 : CellIdx)
  /-- `FMUL fd, fs1, fs2`, opcode 0x22, format R3 (R150). -/
  | fmul (rd : CellIdx) (rs1 : CellIdx) (rs2 : CellIdx)
  /-- `FSQR fd, fs1`, opcode 0x23, format R2 (R151). -/
  | fsqr (rd : CellIdx) (rs1 : CellIdx)
  /-- `FNEG fd, fs1`, opcode 0x24, format R2 (R152). -/
  | fneg (rd : CellIdx) (rs1 : CellIdx)
  /-- `FINV fd, fs1`, opcode 0x25, format R2 (R153). -/
  | finv (rd : CellIdx) (rs1 : CellIdx)
  /-- `FPOW fd, fs1, k`, opcode 0x26, format RK (R154). -/
  | fpow (rd : CellIdx) (rs1 : CellIdx) (k : KIdx)
  /-- `FSQRT fd, fs1`, opcode 0x27, format R2 (R155). -/
  | fsqrt (rd : CellIdx) (rs1 : CellIdx)
  /-- `FISZ fs1`, opcode 0x28, format T1 (R156). -/
  | fisz (rs1 : CellIdx)
  /-- `FEQ fs1, fs2`, opcode 0x29, format T2 (R157). -/
  | feq (rs1 : CellIdx) (rs2 : CellIdx)
  /-- `FLT fs1, fs2`, opcode 0x2A, format T2 (R158). -/
  | flt (rs1 : CellIdx) (rs2 : CellIdx)
  /-- `FISSQ fs1`, opcode 0x2B, format T1 (R159). -/
  | fissq (rs1 : CellIdx)
  /-- `FSIGN fs1`, opcode 0x2C, format T1 (R160). -/
  | fsign (rs1 : CellIdx)
  /-- `FBIT fs1, #imm10`, opcode 0x2D, format TB (R161). -/
  | fbit (rs1 : CellIdx) (imm10 : BitVec 10)
  /-- `FFROB fd, fs1, #pow`, opcode 0x2E, format RI (R162). -/
  | ffrob (rd : CellIdx) (rs1 : CellIdx) (pow : BitVec 7)
  /-- `F2ADD fd, fs1, fs2`, opcode 0x30, format R3 (R184). -/
  | f2add (rd : CellIdx) (rs1 : CellIdx) (rs2 : CellIdx)
  /-- `F2SUB fd, fs1, fs2`, opcode 0x31, format R3 (R185). -/
  | f2sub (rd : CellIdx) (rs1 : CellIdx) (rs2 : CellIdx)
  /-- `F2MUL fd, fs1, fs2`, opcode 0x32, format R3 (R186). -/
  | f2mul (rd : CellIdx) (rs1 : CellIdx) (rs2 : CellIdx)
  /-- `F2SQR fd, fs1`, opcode 0x33, format R2 (R187). -/
  | f2sqr (rd : CellIdx) (rs1 : CellIdx)
  /-- `F2NEG fd, fs1`, opcode 0x34, format R2 (R188). -/
  | f2neg (rd : CellIdx) (rs1 : CellIdx)
  /-- `F2INV fd, fs1`, opcode 0x35, format R2 (R189). -/
  | f2inv (rd : CellIdx) (rs1 : CellIdx)
  /-- `F2FROB fd, fs1, #pow`, opcode 0x36, format RI (R190). -/
  | f2frob (rd : CellIdx) (rs1 : CellIdx) (pow : BitVec 7)
  /-- `F2ISZ fs1`, opcode 0x37, format T1 (R191). -/
  | f2isz (rs1 : CellIdx)
  /-- `F2EQ fs1, fs2`, opcode 0x38, format T2 (R192). -/
  | f2eq (rs1 : CellIdx) (rs2 : CellIdx)
  /-- `F3ADD fd, fs1, fs2`, opcode 0x40, format R3 (R204). -/
  | f3add (rd : CellIdx) (rs1 : CellIdx) (rs2 : CellIdx)
  /-- `F3SUB fd, fs1, fs2`, opcode 0x41, format R3 (R205). -/
  | f3sub (rd : CellIdx) (rs1 : CellIdx) (rs2 : CellIdx)
  /-- `F3MUL fd, fs1, fs2`, opcode 0x42, format R3 (R206). -/
  | f3mul (rd : CellIdx) (rs1 : CellIdx) (rs2 : CellIdx)
  /-- `F3SQR fd, fs1`, opcode 0x43, format R2 (R207). -/
  | f3sqr (rd : CellIdx) (rs1 : CellIdx)
  /-- `F3NEG fd, fs1`, opcode 0x44, format R2 (R208). -/
  | f3neg (rd : CellIdx) (rs1 : CellIdx)
  /-- `F3INV fd, fs1`, opcode 0x45, format R2 (R209). -/
  | f3inv (rd : CellIdx) (rs1 : CellIdx)
  /-- `F3FROB fd, fs1, #pow`, opcode 0x46, format RI (R210). -/
  | f3frob (rd : CellIdx) (rs1 : CellIdx) (pow : BitVec 7)
  /-- `F3ISZ fs1`, opcode 0x47, format T1 (R211). -/
  | f3isz (rs1 : CellIdx)
  /-- `F3EQ fs1, fs2`, opcode 0x48, format T2 (R212). -/
  | f3eq (rs1 : CellIdx) (rs2 : CellIdx)
  /-- `F6ADD fd, fs1, fs2`, opcode 0x50, format R3 (R225). -/
  | f6add (rd : CellIdx) (rs1 : CellIdx) (rs2 : CellIdx)
  /-- `F6SUB fd, fs1, fs2`, opcode 0x51, format R3 (R226). -/
  | f6sub (rd : CellIdx) (rs1 : CellIdx) (rs2 : CellIdx)
  /-- `F6MUL fd, fs1, fs2`, opcode 0x52, format R3 (R227). -/
  | f6mul (rd : CellIdx) (rs1 : CellIdx) (rs2 : CellIdx)
  /-- `F6SQR fd, fs1`, opcode 0x53, format R2 (R228). -/
  | f6sqr (rd : CellIdx) (rs1 : CellIdx)
  /-- `F6NEG fd, fs1`, opcode 0x54, format R2 (R229). -/
  | f6neg (rd : CellIdx) (rs1 : CellIdx)
  /-- `F6INV fd, fs1`, opcode 0x55, format R2 (R230). -/
  | f6inv (rd : CellIdx) (rs1 : CellIdx)
  /-- `F6FROB fd, fs1, #pow`, opcode 0x56, format RI (R231). -/
  | f6frob (rd : CellIdx) (rs1 : CellIdx) (pow : BitVec 7)
  /-- `F6ISZ fs1`, opcode 0x57, format T1 (R232). -/
  | f6isz (rs1 : CellIdx)
  /-- `F6EQ fs1, fs2`, opcode 0x58, format T2 (R233). -/
  | f6eq (rs1 : CellIdx) (rs2 : CellIdx)
  /-- `F12ADD fd, fs1, fs2`, opcode 0x60, format R3 (R244). -/
  | f12add (rd : CellIdx) (rs1 : CellIdx) (rs2 : CellIdx)
  /-- `F12SUB fd, fs1, fs2`, opcode 0x61, format R3 (R245). -/
  | f12sub (rd : CellIdx) (rs1 : CellIdx) (rs2 : CellIdx)
  /-- `F12MUL fd, fs1, fs2`, opcode 0x62, format R3 (R246). -/
  | f12mul (rd : CellIdx) (rs1 : CellIdx) (rs2 : CellIdx)
  /-- `F12SQR fd, fs1`, opcode 0x63, format R2 (R247). -/
  | f12sqr (rd : CellIdx) (rs1 : CellIdx)
  /-- `F12NEG fd, fs1`, opcode 0x64, format R2 (R248). -/
  | f12neg (rd : CellIdx) (rs1 : CellIdx)
  /-- `F12INV fd, fs1`, opcode 0x65, format R2 (R249). -/
  | f12inv (rd : CellIdx) (rs1 : CellIdx)
  /-- `F12FROB fd, fs1, #pow`, opcode 0x66, format RI (R250). -/
  | f12frob (rd : CellIdx) (rs1 : CellIdx) (pow : BitVec 7)
  /-- `F12ISZ fs1`, opcode 0x67, format T1 (R251). -/
  | f12isz (rs1 : CellIdx)
  /-- `F12EQ fs1, fs2`, opcode 0x68, format T2 (R252). -/
  | f12eq (rs1 : CellIdx) (rs2 : CellIdx)
  /-- `F12UINV fd, fs1`, opcode 0x69, format R2 (R253). -/
  | f12uinv (rd : CellIdx) (rs1 : CellIdx)
  /-- `F12CSQR fd, fs1`, opcode 0x6A, format R2 (R254). -/
  | f12csqr (rd : CellIdx) (rs1 : CellIdx)
  /-- `F12CEXP fd, fs1, k`, opcode 0x6B, format RK (R255). -/
  | f12cexp (rd : CellIdx) (rs1 : CellIdx) (k : KIdx)
  /-- `PDBL fd, fs1`, opcode 0x70, format R2 (R270). -/
  | pdbl (rd : CellIdx) (rs1 : CellIdx)
  /-- `PADD fd, fs1, fs2`, opcode 0x71, format R3 (R271). -/
  | padd (rd : CellIdx) (rs1 : CellIdx) (rs2 : CellIdx)
  /-- `PMADD fd, fs1, fs2`, opcode 0x72, format R3 (R272). -/
  | pmadd (rd : CellIdx) (rs1 : CellIdx) (rs2 : CellIdx)
  /-- `PNEG fd, fs1`, opcode 0x73, format R2 (R273). -/
  | pneg (rd : CellIdx) (rs1 : CellIdx)
  /-- `PAFF fd, fs1`, opcode 0x74, format R2 (R274). -/
  | paff (rd : CellIdx) (rs1 : CellIdx)
  /-- `PISID fs1`, opcode 0x75, format T1 (R275). -/
  | pisid (rs1 : CellIdx)
  /-- `PEQ fs1, fs2`, opcode 0x76, format T2 (R276). -/
  | peq (rs1 : CellIdx) (rs2 : CellIdx)
  /-- `PISWF fs1`, opcode 0x77, format T1 (R277). -/
  | piswf (rs1 : CellIdx)
  /-- `PZERO fd`, opcode 0x78, format D (R278). -/
  | pzero (rd : CellIdx)
  /-- `PONE fd`, opcode 0x79, format D (R279). -/
  | pone (rd : CellIdx)
  /-- `PSMUL fd, fs1, k`, opcode 0x7A, format RK (R303). -/
  | psmul (rd : CellIdx) (rs1 : CellIdx) (k : KIdx)
  /-- `PSMULW fd, fs1, k, #w`, opcode 0x7B, format RKW (R304). -/
  | psmulw (rd : CellIdx) (rs1 : CellIdx) (k : KIdx) (wm1 : BitVec 3)
  /-- `WINSEL1 kd, ks`, opcode 0x7C, format KK (R305). -/
  | winsel1 (kd : KIdx) (ks : KIdx)
  /-- `QDBL fd, fs1`, opcode 0x80, format R2 (R280). -/
  | qdbl (rd : CellIdx) (rs1 : CellIdx)
  /-- `QADD fd, fs1, fs2`, opcode 0x81, format R3 (R281). -/
  | qadd (rd : CellIdx) (rs1 : CellIdx) (rs2 : CellIdx)
  /-- `QMADD fd, fs1, fs2`, opcode 0x82, format R3 (R282). -/
  | qmadd (rd : CellIdx) (rs1 : CellIdx) (rs2 : CellIdx)
  /-- `QNEG fd, fs1`, opcode 0x83, format R2 (R283). -/
  | qneg (rd : CellIdx) (rs1 : CellIdx)
  /-- `QAFF fd, fs1`, opcode 0x84, format R2 (R284). -/
  | qaff (rd : CellIdx) (rs1 : CellIdx)
  /-- `QISID fs1`, opcode 0x85, format T1 (R285). -/
  | qisid (rs1 : CellIdx)
  /-- `QEQ fs1, fs2`, opcode 0x86, format T2 (R286). -/
  | qeq (rs1 : CellIdx) (rs2 : CellIdx)
  /-- `QISWF fs1`, opcode 0x87, format T1 (R287). -/
  | qiswf (rs1 : CellIdx)
  /-- `QZERO fd`, opcode 0x88, format D (R288). -/
  | qzero (rd : CellIdx)
  /-- `QONE fd`, opcode 0x89, format D (R289). -/
  | qone (rd : CellIdx)
  /-- `QSMUL fd, fs1, k`, opcode 0x8A, format RK (R306). -/
  | qsmul (rd : CellIdx) (rs1 : CellIdx) (k : KIdx)
  /-- `QSMULW fd, fs1, k, #w`, opcode 0x8B, format RKW (R307). -/
  | qsmulw (rd : CellIdx) (rs1 : CellIdx) (k : KIdx) (wm1 : BitVec 3)
  /-- `WINSEL2 kd, ks`, opcode 0x8C, format KK (R308). -/
  | winsel2 (kd : KIdx) (ks : KIdx)
  /-- `PRECOMP #bank, fs1`, opcode 0x90, format PB (R325). -/
  | precomp (bank : BankIdx) (rs1 : CellIdx)
  /-- `MILLER fd, fs1, #bank`, opcode 0x91, format MB (R326). -/
  | miller (rd : CellIdx) (rs1 : CellIdx) (bank : BankIdx)
  /-- `MILLER2 fd, fs1, fs2`, opcode 0x92, format R3 (R327). -/
  | miller2 (rd : CellIdx) (rs1 : CellIdx) (rs2 : CellIdx)
  /-- `FEXPE fd, fs1`, opcode 0x93, format R2 (R357). -/
  | fexpe (rd : CellIdx) (rs1 : CellIdx)
  /-- `FEXPH fd, fs1`, opcode 0x94, format R2 (R358). -/
  | fexph (rd : CellIdx) (rs1 : CellIdx)
  /-- `FEXP fd, fs1`, opcode 0x95, format R2 (R359). -/
  | fexp (rd : CellIdx) (rs1 : CellIdx)
  /-- `EXPZ fd, fs1`, opcode 0x96, format R2 (R360). -/
  | expz (rd : CellIdx) (rs1 : CellIdx)
  /-- `PAIR fd, fs1, fs2`, opcode 0x97, format R3 (R328). -/
  | pair (rd : CellIdx) (rs1 : CellIdx) (rs2 : CellIdx)
  /-- `PAIRR fd, fs1, fs2`, opcode 0x98, format R3 (R329). -/
  | pairr (rd : CellIdx) (rs1 : CellIdx) (rs2 : CellIdx)
deriving DecidableEq, Repr

end Sys2Proof
end

