-- ==== Sys2Proof/WellFormed.lean ====
section
/-! DEFINITION. Which terms of `Instr` are commands. Register and bank indices are in range by their
types (their upper bits are must-be-zero, rule R91); what is left is the count of MOV and ZERO. -/

namespace Sys2Proof

/-- A well-formed command: for MOV and ZERO `cnt` is in `1..127`, for every other command nothing
is left to ask (R91, R93: "plus, for MOV and ZERO only, `cnt != 0`"). -/
def Instr.wf : Instr → Bool
  | .mov _ _ cnt => cnt != 0
  | .zero _ cnt => cnt != 0
  | .nop | .ldfe _ _ | .stfe _ _ | .ldraw _ _ | .straw _ _ | .ldk _ _ | .stk _ _ | .ldki _ _ | .one _
  | .mmul _ _ _ | .bmul _ _ _ | .tomont _ _ | .frommont _ _ | .fadd _ _ _ | .fsub _ _ _ | .fmul _ _ _
  | .fsqr _ _ | .fneg _ _ | .finv _ _ | .fpow _ _ _ | .fsqrt _ _ | .fisz _ | .feq _ _ | .flt _ _ | .fissq _
  | .fsign _ | .fbit _ _ | .ffrob _ _ _ | .f2add _ _ _ | .f2sub _ _ _ | .f2mul _ _ _ | .f2sqr _ _
  | .f2neg _ _ | .f2inv _ _ | .f2frob _ _ _ | .f2isz _ | .f2eq _ _ | .f3add _ _ _ | .f3sub _ _ _
  | .f3mul _ _ _ | .f3sqr _ _ | .f3neg _ _ | .f3inv _ _ | .f3frob _ _ _ | .f3isz _ | .f3eq _ _ | .f6add _ _ _
  | .f6sub _ _ _ | .f6mul _ _ _ | .f6sqr _ _ | .f6neg _ _ | .f6inv _ _ | .f6frob _ _ _ | .f6isz _ | .f6eq _ _
  | .f12add _ _ _ | .f12sub _ _ _ | .f12mul _ _ _ | .f12sqr _ _ | .f12neg _ _ | .f12inv _ _ | .f12frob _ _ _
  | .f12isz _ | .f12eq _ _ | .f12uinv _ _ | .f12csqr _ _ | .f12cexp _ _ _ | .pdbl _ _ | .padd _ _ _
  | .pmadd _ _ _ | .pneg _ _ | .paff _ _ | .pisid _ | .peq _ _ | .piswf _ | .pzero _ | .pone _ | .psmul _ _ _
  | .psmulw _ _ _ _ | .winsel1 _ _ | .qdbl _ _ | .qadd _ _ _ | .qmadd _ _ _ | .qneg _ _ | .qaff _ _
  | .qisid _ | .qeq _ _ | .qiswf _ | .qzero _ | .qone _ | .qsmul _ _ _ | .qsmulw _ _ _ _ | .winsel2 _ _
  | .precomp _ _ | .miller _ _ _ | .miller2 _ _ _ | .fexpe _ _ | .fexph _ _ | .fexp _ _ | .expz _ _
  | .pair _ _ _ | .pairr _ _ _ => true

end Sys2Proof
end

