-- ==== Sys2Proof/Decode.lean ====
section
/-! DEFINITION. The command word (rules R90 to R96): its five fields, the decoder, total on any word and
rejecting by name, and after it the encoder, both written from the formats of rule R91 and the opcode map
of rule R94. -/

namespace Sys2Proof

/-- Why a word is not a command; each raises ILLEGAL (R93, R373). -/
inductive DecodeError where
  /-- `op` is not an opcode of rule R94 (R95). -/
  | unknownOpcode
  /-- A must-be-zero field of the row's format is not zero (R91). -/
  | mbzNonzero
  /-- `cnt = 0` in MOV or ZERO (R93). -/
  | countZero
deriving DecidableEq, Repr

/-- The five fields of a command word (R90). -/
structure Fields where
  op  : BitVec 8
  rd  : BitVec 7
  rs1 : BitVec 7
  rs2 : BitVec 7
  fn  : BitVec 3
deriving DecidableEq, Repr

/-- `op = w[31:24]`, `rd = w[23:17]`, `rs1 = w[16:10]`, `rs2 = w[9:3]`, `fn = w[2:0]` (R90). -/
def splitWord (w : Word) : Fields :=
  ⟨w.extractLsb' 24 8, w.extractLsb' 17 7, w.extractLsb' 10 7, w.extractLsb' 3 7, w.extractLsb' 0 3⟩

/-- The word with these fields (R90). -/
def joinWord (f : Fields) : Word :=
  f.op ++ f.rd ++ f.rs1 ++ f.rs2 ++ f.fn

/-- The overlay `w[16:0]` of formats M and MK (R90). -/
def Fields.addr (f : Fields) : BitVec 17 := f.rs1 ++ f.rs2 ++ f.fn

/-- The overlay `imm10 = w[9:0]` of format TB (R90). -/
def Fields.imm10 (f : Fields) : BitVec 10 := f.rs2 ++ f.fn

/-- The register number in a 7-bit field whose upper four bits are zero (R91). -/
def kOf (x : BitVec 7) : KIdx := x.extractLsb' 0 3

/-- The upper four bits of a 7-bit field that carries a register number (R91). -/
def kHigh (x : BitVec 7) : BitVec 4 := x.extractLsb' 3 4

/-- The bank, bit 0 of `fn` (R91, formats PB and MB). -/
def bankOf (x : BitVec 3) : BankIdx := x.extractLsb' 0 1

/-- `fn[2:1]`, must be zero in formats PB and MB (R91). -/
def bankHigh (x : BitVec 3) : BitVec 2 := x.extractLsb' 1 2

/-- An instruction, when the must-be-zero fields are zero (R93). -/
def mbz (zero : Bool) (i : Instr) : Except DecodeError Instr :=
  if zero then .ok i else .error .mbzNonzero

/-! The formats of rule R91, each with its must-be-zero fields. -/

def fmtN (c : Instr) (f : Fields) : Except DecodeError Instr :=
  mbz (f.rd == 0 && f.rs1 == 0 && f.rs2 == 0 && f.fn == 0) c

def fmtM (c : CellIdx → BitVec 17 → Instr) (f : Fields) : Except DecodeError Instr :=
  .ok (c f.rd f.addr)

def fmtMK (c : KIdx → BitVec 17 → Instr) (f : Fields) : Except DecodeError Instr :=
  mbz (kHigh f.rd == 0) (c (kOf f.rd) f.addr)

def fmtR3 (c : CellIdx → CellIdx → CellIdx → Instr) (f : Fields) : Except DecodeError Instr :=
  mbz (f.fn == 0) (c f.rd f.rs1 f.rs2)

def fmtR2 (c : CellIdx → CellIdx → Instr) (f : Fields) : Except DecodeError Instr :=
  mbz (f.rs2 == 0 && f.fn == 0) (c f.rd f.rs1)

def fmtD (c : CellIdx → Instr) (f : Fields) : Except DecodeError Instr :=
  mbz (f.rs1 == 0 && f.rs2 == 0 && f.fn == 0) (c f.rd)

/-- Format DI; its one row is ZERO, whose count is not zero (R93). -/
def fmtDI (c : CellIdx → BitVec 7 → Instr) (f : Fields) : Except DecodeError Instr :=
  if f.rs1 == 0 && f.fn == 0 then
    if f.rs2 == 0 then .error .countZero else .ok (c f.rd f.rs2)
  else .error .mbzNonzero

def fmtRI (c : CellIdx → CellIdx → BitVec 7 → Instr) (f : Fields) : Except DecodeError Instr :=
  mbz (f.fn == 0) (c f.rd f.rs1 f.rs2)

/-- Format RI as MOV uses it: the count is not zero (R93). -/
def fmtMov (c : CellIdx → CellIdx → BitVec 7 → Instr) (f : Fields) : Except DecodeError Instr :=
  if f.fn == 0 then
    if f.rs2 == 0 then .error .countZero else .ok (c f.rd f.rs1 f.rs2)
  else .error .mbzNonzero

def fmtRK (c : CellIdx → CellIdx → KIdx → Instr) (f : Fields) : Except DecodeError Instr :=
  mbz (f.fn == 0 && kHigh f.rs2 == 0) (c f.rd f.rs1 (kOf f.rs2))

def fmtRKW (c : CellIdx → CellIdx → KIdx → BitVec 3 → Instr) (f : Fields) : Except DecodeError Instr :=
  mbz (kHigh f.rs2 == 0) (c f.rd f.rs1 (kOf f.rs2) f.fn)

def fmtT1 (c : CellIdx → Instr) (f : Fields) : Except DecodeError Instr :=
  mbz (f.rd == 0 && f.rs2 == 0 && f.fn == 0) (c f.rs1)

def fmtT2 (c : CellIdx → CellIdx → Instr) (f : Fields) : Except DecodeError Instr :=
  mbz (f.rd == 0 && f.fn == 0) (c f.rs1 f.rs2)

def fmtTB (c : CellIdx → BitVec 10 → Instr) (f : Fields) : Except DecodeError Instr :=
  mbz (f.rd == 0) (c f.rs1 f.imm10)

def fmtKK (c : KIdx → KIdx → Instr) (f : Fields) : Except DecodeError Instr :=
  mbz (f.rs2 == 0 && f.fn == 0 && kHigh f.rd == 0 && kHigh f.rs1 == 0) (c (kOf f.rd) (kOf f.rs1))

def fmtPB (c : BankIdx → CellIdx → Instr) (f : Fields) : Except DecodeError Instr :=
  mbz (f.rd == 0 && f.rs2 == 0 && bankHigh f.fn == 0) (c (bankOf f.fn) f.rs1)

def fmtMB (c : CellIdx → CellIdx → BankIdx → Instr) (f : Fields) : Except DecodeError Instr :=
  mbz (f.rs2 == 0 && bankHigh f.fn == 0) (c f.rd f.rs1 (bankOf f.fn))

/-- The opcode map (R94): the row of `op` and its format; every other opcode is reserved (R95). -/
def decodeFields (f : Fields) : Except DecodeError Instr :=
  match f.op.toNat with
  | 0x00 => fmtN .nop f
  | 0x01 => fmtM .ldfe f
  | 0x02 => fmtM .stfe f
  | 0x03 => fmtM .ldraw f
  | 0x04 => fmtM .straw f
  | 0x05 => fmtMK .ldk f
  | 0x06 => fmtMK .stk f
  | 0x07 => fmtMK .ldki f
  | 0x08 => fmtMov .mov f
  | 0x09 => fmtDI .zero f
  | 0x0A => fmtD .one f
  | 0x10 => fmtR3 .mmul f
  | 0x11 => fmtR3 .bmul f
  | 0x12 => fmtR2 .tomont f
  | 0x13 => fmtR2 .frommont f
  | 0x20 => fmtR3 .fadd f
  | 0x21 => fmtR3 .fsub f
  | 0x22 => fmtR3 .fmul f
  | 0x23 => fmtR2 .fsqr f
  | 0x24 => fmtR2 .fneg f
  | 0x25 => fmtR2 .finv f
  | 0x26 => fmtRK .fpow f
  | 0x27 => fmtR2 .fsqrt f
  | 0x28 => fmtT1 .fisz f
  | 0x29 => fmtT2 .feq f
  | 0x2A => fmtT2 .flt f
  | 0x2B => fmtT1 .fissq f
  | 0x2C => fmtT1 .fsign f
  | 0x2D => fmtTB .fbit f
  | 0x2E => fmtRI .ffrob f
  | 0x30 => fmtR3 .f2add f
  | 0x31 => fmtR3 .f2sub f
  | 0x32 => fmtR3 .f2mul f
  | 0x33 => fmtR2 .f2sqr f
  | 0x34 => fmtR2 .f2neg f
  | 0x35 => fmtR2 .f2inv f
  | 0x36 => fmtRI .f2frob f
  | 0x37 => fmtT1 .f2isz f
  | 0x38 => fmtT2 .f2eq f
  | 0x40 => fmtR3 .f3add f
  | 0x41 => fmtR3 .f3sub f
  | 0x42 => fmtR3 .f3mul f
  | 0x43 => fmtR2 .f3sqr f
  | 0x44 => fmtR2 .f3neg f
  | 0x45 => fmtR2 .f3inv f
  | 0x46 => fmtRI .f3frob f
  | 0x47 => fmtT1 .f3isz f
  | 0x48 => fmtT2 .f3eq f
  | 0x50 => fmtR3 .f6add f
  | 0x51 => fmtR3 .f6sub f
  | 0x52 => fmtR3 .f6mul f
  | 0x53 => fmtR2 .f6sqr f
  | 0x54 => fmtR2 .f6neg f
  | 0x55 => fmtR2 .f6inv f
  | 0x56 => fmtRI .f6frob f
  | 0x57 => fmtT1 .f6isz f
  | 0x58 => fmtT2 .f6eq f
  | 0x60 => fmtR3 .f12add f
  | 0x61 => fmtR3 .f12sub f
  | 0x62 => fmtR3 .f12mul f
  | 0x63 => fmtR2 .f12sqr f
  | 0x64 => fmtR2 .f12neg f
  | 0x65 => fmtR2 .f12inv f
  | 0x66 => fmtRI .f12frob f
  | 0x67 => fmtT1 .f12isz f
  | 0x68 => fmtT2 .f12eq f
  | 0x69 => fmtR2 .f12uinv f
  | 0x6A => fmtR2 .f12csqr f
  | 0x6B => fmtRK .f12cexp f
  | 0x70 => fmtR2 .pdbl f
  | 0x71 => fmtR3 .padd f
  | 0x72 => fmtR3 .pmadd f
  | 0x73 => fmtR2 .pneg f
  | 0x74 => fmtR2 .paff f
  | 0x75 => fmtT1 .pisid f
  | 0x76 => fmtT2 .peq f
  | 0x77 => fmtT1 .piswf f
  | 0x78 => fmtD .pzero f
  | 0x79 => fmtD .pone f
  | 0x7A => fmtRK .psmul f
  | 0x7B => fmtRKW .psmulw f
  | 0x7C => fmtKK .winsel1 f
  | 0x80 => fmtR2 .qdbl f
  | 0x81 => fmtR3 .qadd f
  | 0x82 => fmtR3 .qmadd f
  | 0x83 => fmtR2 .qneg f
  | 0x84 => fmtR2 .qaff f
  | 0x85 => fmtT1 .qisid f
  | 0x86 => fmtT2 .qeq f
  | 0x87 => fmtT1 .qiswf f
  | 0x88 => fmtD .qzero f
  | 0x89 => fmtD .qone f
  | 0x8A => fmtRK .qsmul f
  | 0x8B => fmtRKW .qsmulw f
  | 0x8C => fmtKK .winsel2 f
  | 0x90 => fmtPB .precomp f
  | 0x91 => fmtMB .miller f
  | 0x92 => fmtR3 .miller2 f
  | 0x93 => fmtR2 .fexpe f
  | 0x94 => fmtR2 .fexph f
  | 0x95 => fmtR2 .fexp f
  | 0x96 => fmtR2 .expz f
  | 0x97 => fmtR3 .pair f
  | 0x98 => fmtR3 .pairr f
  | _ => .error .unknownOpcode

/-- Decoding a command word (R93): total, and a word that is no command is rejected by name. -/
def decode (w : Word) : Except DecodeError Instr :=
  decodeFields (splitWord w)

/-! The encoder, from the same tables. -/

/-- A register number as a 7-bit field with zero upper bits (R91). -/
def ofK (k : KIdx) : BitVec 7 := 0#4 ++ k

/-- A bank as the `fn` field with zero upper bits (R91). -/
def ofBank (b : BankIdx) : BitVec 3 := 0#2 ++ b

/-- The fields of a word of formats M and MK: the 17-bit overlay split over `rs1`, `rs2` and `fn` (R91). -/
def withAddr (op : BitVec 8) (rd : BitVec 7) (a : BitVec 17) : Fields :=
  ⟨op, rd, a.extractLsb' 10 7, a.extractLsb' 3 7, a.extractLsb' 0 3⟩

/-- The fields of a command (R91, R94). -/
def encodeFields : Instr → Fields
  | .nop => ⟨0x00#8, 0, 0, 0, 0⟩
  | .ldfe f addr => withAddr 0x01#8 f addr
  | .stfe f addr => withAddr 0x02#8 f addr
  | .ldraw f addr => withAddr 0x03#8 f addr
  | .straw f addr => withAddr 0x04#8 f addr
  | .ldk k addr => withAddr 0x05#8 (ofK k) addr
  | .stk k addr => withAddr 0x06#8 (ofK k) addr
  | .ldki k imm17 => withAddr 0x07#8 (ofK k) imm17
  | .mov rd rs1 cnt => ⟨0x08#8, rd, rs1, cnt, 0⟩
  | .zero rd cnt => ⟨0x09#8, rd, 0, cnt, 0⟩
  | .one rd => ⟨0x0A#8, rd, 0, 0, 0⟩
  | .mmul rd rs1 rs2 => ⟨0x10#8, rd, rs1, rs2, 0⟩
  | .bmul rd rs1 rs2 => ⟨0x11#8, rd, rs1, rs2, 0⟩
  | .tomont rd rs1 => ⟨0x12#8, rd, rs1, 0, 0⟩
  | .frommont rd rs1 => ⟨0x13#8, rd, rs1, 0, 0⟩
  | .fadd rd rs1 rs2 => ⟨0x20#8, rd, rs1, rs2, 0⟩
  | .fsub rd rs1 rs2 => ⟨0x21#8, rd, rs1, rs2, 0⟩
  | .fmul rd rs1 rs2 => ⟨0x22#8, rd, rs1, rs2, 0⟩
  | .fsqr rd rs1 => ⟨0x23#8, rd, rs1, 0, 0⟩
  | .fneg rd rs1 => ⟨0x24#8, rd, rs1, 0, 0⟩
  | .finv rd rs1 => ⟨0x25#8, rd, rs1, 0, 0⟩
  | .fpow rd rs1 k => ⟨0x26#8, rd, rs1, ofK k, 0⟩
  | .fsqrt rd rs1 => ⟨0x27#8, rd, rs1, 0, 0⟩
  | .fisz rs1 => ⟨0x28#8, 0, rs1, 0, 0⟩
  | .feq rs1 rs2 => ⟨0x29#8, 0, rs1, rs2, 0⟩
  | .flt rs1 rs2 => ⟨0x2A#8, 0, rs1, rs2, 0⟩
  | .fissq rs1 => ⟨0x2B#8, 0, rs1, 0, 0⟩
  | .fsign rs1 => ⟨0x2C#8, 0, rs1, 0, 0⟩
  | .fbit rs1 imm10 => ⟨0x2D#8, 0, rs1, imm10.extractLsb' 3 7, imm10.extractLsb' 0 3⟩
  | .ffrob rd rs1 pow => ⟨0x2E#8, rd, rs1, pow, 0⟩
  | .f2add rd rs1 rs2 => ⟨0x30#8, rd, rs1, rs2, 0⟩
  | .f2sub rd rs1 rs2 => ⟨0x31#8, rd, rs1, rs2, 0⟩
  | .f2mul rd rs1 rs2 => ⟨0x32#8, rd, rs1, rs2, 0⟩
  | .f2sqr rd rs1 => ⟨0x33#8, rd, rs1, 0, 0⟩
  | .f2neg rd rs1 => ⟨0x34#8, rd, rs1, 0, 0⟩
  | .f2inv rd rs1 => ⟨0x35#8, rd, rs1, 0, 0⟩
  | .f2frob rd rs1 pow => ⟨0x36#8, rd, rs1, pow, 0⟩
  | .f2isz rs1 => ⟨0x37#8, 0, rs1, 0, 0⟩
  | .f2eq rs1 rs2 => ⟨0x38#8, 0, rs1, rs2, 0⟩
  | .f3add rd rs1 rs2 => ⟨0x40#8, rd, rs1, rs2, 0⟩
  | .f3sub rd rs1 rs2 => ⟨0x41#8, rd, rs1, rs2, 0⟩
  | .f3mul rd rs1 rs2 => ⟨0x42#8, rd, rs1, rs2, 0⟩
  | .f3sqr rd rs1 => ⟨0x43#8, rd, rs1, 0, 0⟩
  | .f3neg rd rs1 => ⟨0x44#8, rd, rs1, 0, 0⟩
  | .f3inv rd rs1 => ⟨0x45#8, rd, rs1, 0, 0⟩
  | .f3frob rd rs1 pow => ⟨0x46#8, rd, rs1, pow, 0⟩
  | .f3isz rs1 => ⟨0x47#8, 0, rs1, 0, 0⟩
  | .f3eq rs1 rs2 => ⟨0x48#8, 0, rs1, rs2, 0⟩
  | .f6add rd rs1 rs2 => ⟨0x50#8, rd, rs1, rs2, 0⟩
  | .f6sub rd rs1 rs2 => ⟨0x51#8, rd, rs1, rs2, 0⟩
  | .f6mul rd rs1 rs2 => ⟨0x52#8, rd, rs1, rs2, 0⟩
  | .f6sqr rd rs1 => ⟨0x53#8, rd, rs1, 0, 0⟩
  | .f6neg rd rs1 => ⟨0x54#8, rd, rs1, 0, 0⟩
  | .f6inv rd rs1 => ⟨0x55#8, rd, rs1, 0, 0⟩
  | .f6frob rd rs1 pow => ⟨0x56#8, rd, rs1, pow, 0⟩
  | .f6isz rs1 => ⟨0x57#8, 0, rs1, 0, 0⟩
  | .f6eq rs1 rs2 => ⟨0x58#8, 0, rs1, rs2, 0⟩
  | .f12add rd rs1 rs2 => ⟨0x60#8, rd, rs1, rs2, 0⟩
  | .f12sub rd rs1 rs2 => ⟨0x61#8, rd, rs1, rs2, 0⟩
  | .f12mul rd rs1 rs2 => ⟨0x62#8, rd, rs1, rs2, 0⟩
  | .f12sqr rd rs1 => ⟨0x63#8, rd, rs1, 0, 0⟩
  | .f12neg rd rs1 => ⟨0x64#8, rd, rs1, 0, 0⟩
  | .f12inv rd rs1 => ⟨0x65#8, rd, rs1, 0, 0⟩
  | .f12frob rd rs1 pow => ⟨0x66#8, rd, rs1, pow, 0⟩
  | .f12isz rs1 => ⟨0x67#8, 0, rs1, 0, 0⟩
  | .f12eq rs1 rs2 => ⟨0x68#8, 0, rs1, rs2, 0⟩
  | .f12uinv rd rs1 => ⟨0x69#8, rd, rs1, 0, 0⟩
  | .f12csqr rd rs1 => ⟨0x6A#8, rd, rs1, 0, 0⟩
  | .f12cexp rd rs1 k => ⟨0x6B#8, rd, rs1, ofK k, 0⟩
  | .pdbl rd rs1 => ⟨0x70#8, rd, rs1, 0, 0⟩
  | .padd rd rs1 rs2 => ⟨0x71#8, rd, rs1, rs2, 0⟩
  | .pmadd rd rs1 rs2 => ⟨0x72#8, rd, rs1, rs2, 0⟩
  | .pneg rd rs1 => ⟨0x73#8, rd, rs1, 0, 0⟩
  | .paff rd rs1 => ⟨0x74#8, rd, rs1, 0, 0⟩
  | .pisid rs1 => ⟨0x75#8, 0, rs1, 0, 0⟩
  | .peq rs1 rs2 => ⟨0x76#8, 0, rs1, rs2, 0⟩
  | .piswf rs1 => ⟨0x77#8, 0, rs1, 0, 0⟩
  | .pzero rd => ⟨0x78#8, rd, 0, 0, 0⟩
  | .pone rd => ⟨0x79#8, rd, 0, 0, 0⟩
  | .psmul rd rs1 k => ⟨0x7A#8, rd, rs1, ofK k, 0⟩
  | .psmulw rd rs1 k wm1 => ⟨0x7B#8, rd, rs1, ofK k, wm1⟩
  | .winsel1 kd ks => ⟨0x7C#8, ofK kd, ofK ks, 0, 0⟩
  | .qdbl rd rs1 => ⟨0x80#8, rd, rs1, 0, 0⟩
  | .qadd rd rs1 rs2 => ⟨0x81#8, rd, rs1, rs2, 0⟩
  | .qmadd rd rs1 rs2 => ⟨0x82#8, rd, rs1, rs2, 0⟩
  | .qneg rd rs1 => ⟨0x83#8, rd, rs1, 0, 0⟩
  | .qaff rd rs1 => ⟨0x84#8, rd, rs1, 0, 0⟩
  | .qisid rs1 => ⟨0x85#8, 0, rs1, 0, 0⟩
  | .qeq rs1 rs2 => ⟨0x86#8, 0, rs1, rs2, 0⟩
  | .qiswf rs1 => ⟨0x87#8, 0, rs1, 0, 0⟩
  | .qzero rd => ⟨0x88#8, rd, 0, 0, 0⟩
  | .qone rd => ⟨0x89#8, rd, 0, 0, 0⟩
  | .qsmul rd rs1 k => ⟨0x8A#8, rd, rs1, ofK k, 0⟩
  | .qsmulw rd rs1 k wm1 => ⟨0x8B#8, rd, rs1, ofK k, wm1⟩
  | .winsel2 kd ks => ⟨0x8C#8, ofK kd, ofK ks, 0, 0⟩
  | .precomp bank rs1 => ⟨0x90#8, 0, rs1, 0, ofBank bank⟩
  | .miller rd rs1 bank => ⟨0x91#8, rd, rs1, 0, ofBank bank⟩
  | .miller2 rd rs1 rs2 => ⟨0x92#8, rd, rs1, rs2, 0⟩
  | .fexpe rd rs1 => ⟨0x93#8, rd, rs1, 0, 0⟩
  | .fexph rd rs1 => ⟨0x94#8, rd, rs1, 0, 0⟩
  | .fexp rd rs1 => ⟨0x95#8, rd, rs1, 0, 0⟩
  | .expz rd rs1 => ⟨0x96#8, rd, rs1, 0, 0⟩
  | .pair rd rs1 rs2 => ⟨0x97#8, rd, rs1, rs2, 0⟩
  | .pairr rd rs1 rs2 => ⟨0x98#8, rd, rs1, rs2, 0⟩

/-- The word of a command: its one 32-bit word (R90). -/
def encode (i : Instr) : Word :=
  joinWord (encodeFields i)

/-- The words of a command, lowest first: there is exactly one (R90). -/
def encodeWords (i : Instr) : List Word := [encode i]

/-- The fixed name the host asks with: the command the decoder reads from the low `nbits` bits of `w`,
every bit above them zero. A word reaches the CORE as one 32-bit value, so it has no byte order (R90). -/
def decodeTableWord (nbits w : Nat) : Option Instr :=
  match decode (BitVec.ofNat 32 (w % 2 ^ nbits)) with
  | .ok i => some i
  | .error _ => none

end Sys2Proof
end

