-- ==== Sys2Proof/Config.lean ====
section
/-! DEFINITION. The configuration record `Config` (rule R9), the fixed sizes of this hardware (rule R10)
and the one parameter function the spec leaves uninterpreted, `CSQR_OFF` (rule R351, entry U2).
Which records are well formed (`CfgWF`) is `Config.wfCheck` and `Config.WF` of Machine/CfgWF.lean. -/

namespace Sys2Proof

/-- `REDMODE`: the reduction the field layer uses, and so the internal representation (R9, R12). -/
inductive RedMode where
  | mont
  | barrett
deriving DecidableEq, Repr

/-- `F6KIND` with the non-residue `NR6` of that kind (R9, R220, R221). -/
inductive F6Kind where
  /-- No Fp6. -/
  | none
  /-- `3OVER2`: `Fp6 = Fp2[v]/(v^3 - NR6)`. -/
  | over2 (nr6 : F2)
  /-- `2OVER3`: `Fp6 = Fp3[w]/(w^2 - NR6)`. -/
  | over3 (nr6 : F3)
deriving DecidableEq, Repr

/-- A slot `t[0..31]` of the hard-part chain (R354). -/
abbrev Slot := Fin 32

/-- One step of the hard-part chain (R354, R356). -/
inductive ChainStep where
  /-- `CSQ d, s`: cyclotomic square. -/
  | csq (d s : Slot)
  /-- `MUL d, s1, s2`: product. -/
  | mul (d s1 s2 : Slot)
  /-- `FRB d, s, k`: Frobenius with power `k` in `0..11`. -/
  | frb (d s : Slot) (k : Fin 12)
  /-- `UIN d, s`: unitary inverse (conjugate). -/
  | uin (d s : Slot)
  /-- `EXZ d, s`: exponentiation by `z`. -/
  | exz (d s : Slot)
deriving DecidableEq, Repr

/-- The default of `RBITS`: `64 * ceil(MODBITS / 64)` (R9). -/
def defaultRbits (modbits : Nat) : Nat := 64 * ((modbits + 63) / 64)

/-- The constants fixed when the hardware is elaborated (R9); no command and no host access changes them
(R7). Field values are canonical integers in `[0, p)`. -/
structure Config where
  /-- `P`, the prime modulus. -/
  p : Nat
  /-- `MODBITS`, the bit length of `p`. -/
  modbits : Nat
  /-- `REDMODE`. -/
  redmode : RedMode
  /-- `RBITS`: `R = 2^RBITS` is the Montgomery radix. A record that does not give it has the default. -/
  rbits : Nat := defaultRbits modbits
  /-- `NQR`, a quadratic non-residue. -/
  nqr : Fp
  hasFp2 : Bool
  /-- `NR2`: `Fp2 = Fp[u]/(u^2 - NR2)`. -/
  nr2 : Fp
  hasFp3 : Bool
  /-- `NR3`: `Fp3 = Fp[u]/(u^3 - NR3)`. -/
  nr3 : Fp
  /-- `F6KIND` and `NR6`. -/
  f6 : F6Kind
  hasFp12 : Bool
  /-- `NR12`: `Fp12 = Fp6[w]/(w^2 - NR12)`. -/
  nr12 : F6Over2
  /-- `CURVE_A` of the G1 curve `y^2 = x^3 + A*x + B`. -/
  curveA : Fp
  /-- `CURVE_B`. -/
  curveB : Fp
  /-- `GEN1`, the affine generator of G1. -/
  gen1 : Aff Fp
  hasG2 : Bool
  /-- `TWIST`, the twist element. -/
  twist : F2
  /-- `GEN2`, the affine generator of G2. -/
  gen2 : Aff F2
  hasPair : Bool
  /-- `LOOPCOUNT`, the magnitude of the Miller loop count. -/
  loopcount : Nat
  loopneg : Bool
  /-- `ZABS`, the magnitude of the curve parameter `z`. -/
  zabs : Nat
  zneg : Bool
  /-- `CHAIN`, the hard-part addition chain. -/
  chain : List ChainStep
  /-- `CHAINOUT`. -/
  chainout : Slot
  /-- `WTAB1`; entry `tab[w]` of R302 is at position `w - 1`. -/
  wtab1 : Vector (BitVec 32) 22
  /-- `WTAB2`. -/
  wtab2 : Vector (BitVec 32) 22
deriving DecidableEq, Repr

namespace Config

/-- `MAXBITS` (R10). -/
def maxbits : Nat := 768

/-- `XBYTES`, the bytes of XMEM (R10). -/
def xbytes : Nat := 4096

/-- `KBYTES`, the bytes of a serialised integer register (R10). -/
def kbytes : Nat := 96

/-- `NREG`, the number of field cells (R10). -/
def nreg : Nat := 128

/-- `CSQR_OFF` of each instance (R351, U2): what the cyclotomic squaring gives off the cyclotomic
subgroup. FREE: a fixed, unknown function of the configuration and the operand; it has no body, so every
theorem holds for each choice of it. -/
opaque csqrOff : Config → F12 → F12

end Config

end Sys2Proof
end

