-- ==== Sys2Proof/Machine/Field.lean ====
section
/-! DEFINITION. Value-level arithmetic: integers, the base field `Fp` (rules R140 to R143), and the
generic construction of extension fields (rules R181, R183, R201, R203, R220 to R224, R240 to R243), each
operation written once over the operations of the underlying field. -/

namespace Sys2Proof.Machine

/-! Integers. -/

/-- `bitlen(n)`: the number of bits of `n`, `bitlen(0) = 0` (R13). -/
def bitlen (n : Nat) : Nat := if n = 0 then 0 else n.log2 + 1

/-- `popcount(n)` over the lowest `k` bits. -/
def popcountBelow (n : Nat) : Nat → Nat
  | 0 => 0
  | k + 1 => popcountBelow n k + (n.testBit k).toNat

/-- The number of set bits of `n` (R29). -/
def popcount (n : Nat) : Nat := popcountBelow n (bitlen n)

/-- Square-and-multiply from bit `i - 1` of `e` down to bit 0, in any multiplicative structure: square,
then multiply by `a` when the bit is set (R154). -/
def powLoop {α : Type} (mul : α → α → α) (a : α) (e : Nat) : Nat → α → α
  | 0, r => r
  | i + 1, r => powLoop mul a e i (if e.testBit i then mul (mul r r) a else mul r r)

/-- `a^e mod p` by the loop of R154. -/
def powMod (p a e : Nat) : Nat :=
  powLoop (fun x y => x * y % p) a e (bitlen e) (1 % p)

/-- `Inv(a)`: the `b` in `[1, p)` with `a * b mod p = 1`, for `a` in `[1, p)` (R143, which allows the
exponentiation `a^(p-2)`: the value is unique). -/
def invMod (p a : Nat) : Nat := powMod p a (p - 2)

/-! Field operations as data. -/

/-- The operations of a field of values and the layout of its elements in cells (R25). -/
structure Fld (α : Type) where
  /-- How many cells an element occupies (R15). -/
  arity : Nat
  /-- The element whose coordinates stand at base `b`, given the canonical value at every index (R25). -/
  get : (Nat → Nat) → Nat → α
  /-- The coordinates of an element, lowest cell first (R25). -/
  put : α → List Nat
  zero : α
  one : α
  add : α → α → α
  sub : α → α → α
  mul : α → α → α
  neg : α → α
  /-- The inverse of a nonzero element. -/
  inv : α → α
  /-- `frob k a = a^(p^k)`, by the tables. -/
  frob : Nat → α → α

/-- `a * a`. -/
def Fld.sqr {α : Type} (K : Fld α) (a : α) : α := K.mul a a

/-- `2 * a`, a repeated addition. -/
def Fld.dbl {α : Type} (K : Fld α) (a : α) : α := K.add a a

/-- `3 * a`. -/
def Fld.tpl {α : Type} (K : Fld α) (a : α) : α := K.add (K.dbl a) a

/-- `4 * a`. -/
def Fld.quadruple {α : Type} (K : Fld α) (a : α) : α := K.dbl (K.dbl a)

/-- `8 * a`. -/
def Fld.octuple {α : Type} (K : Fld α) (a : α) : α := K.dbl (K.dbl (K.dbl a))

/-- `a^e` by square-and-multiply from an accumulator of one (R154). -/
def Fld.pow {α : Type} (K : Fld α) (a : α) (e : Nat) : α :=
  powLoop K.mul a e (bitlen e) K.one

/-- The base field (R140): residues modulo `p`; the Frobenius map is the identity (R162). -/
def fpOps (p : Nat) : Fld Nat where
  arity := 1
  get rd b := rd b
  put a := [a]
  zero := 0
  one := 1 % p
  add a b := (a + b) % p
  sub a b := (a + (p - b % p)) % p
  mul a b := a * b % p
  neg a := (p - a % p) % p
  inv a := invMod p a
  frob _ a := a

/-- A quadratic extension by a root of `x^2 = N`, of characteristic `p` (R181, R183): D0's
`(a+b√N)(c+d√N) = (ac+bdN) + (ad+bc)√N`. The Frobenius table is `N^((p^k - 1)/2)`, indexed modulo the
degree over Fp (R182, R223, R242; conflict C5). -/
def quadExt {α : Type} (p : Nat) (K : Fld α) (N : α) : Fld (Quad α) where
  arity := 2 * K.arity
  get rd b := ⟨K.get rd b, K.get rd (b + K.arity)⟩
  put a := K.put a.c0 ++ K.put a.c1
  zero := ⟨K.zero, K.zero⟩
  one := ⟨K.one, K.zero⟩
  add a b := ⟨K.add a.c0 b.c0, K.add a.c1 b.c1⟩
  sub a b := ⟨K.sub a.c0 b.c0, K.sub a.c1 b.c1⟩
  mul a b := ⟨K.add (K.mul a.c0 b.c0) (K.mul N (K.mul a.c1 b.c1)),
              K.add (K.mul a.c0 b.c1) (K.mul a.c1 b.c0)⟩
  neg a := ⟨K.neg a.c0, K.neg a.c1⟩
  inv a :=
    let n := K.inv (K.sub (K.mul a.c0 a.c0) (K.mul N (K.mul a.c1 a.c1)))
    ⟨K.mul a.c0 n, K.neg (K.mul a.c1 n)⟩
  frob k a :=
    ⟨K.frob k a.c0, K.mul (K.pow N ((p ^ (k % (2 * K.arity)) - 1) / 2)) (K.frob k a.c1)⟩

/-- A cubic extension by a root of `x^3 = N` (R201, R203). The Frobenius tables are
`N^((p^k - 1)/3)` and `N^(2*(p^k - 1)/3)`, indexed modulo the degree over Fp (R202, R222). -/
def cubExt {α : Type} (p : Nat) (K : Fld α) (N : α) : Fld (Cub α) where
  arity := 3 * K.arity
  get rd b := ⟨K.get rd b, K.get rd (b + K.arity), K.get rd (b + 2 * K.arity)⟩
  put a := K.put a.c0 ++ K.put a.c1 ++ K.put a.c2
  zero := ⟨K.zero, K.zero, K.zero⟩
  one := ⟨K.one, K.zero, K.zero⟩
  add a b := ⟨K.add a.c0 b.c0, K.add a.c1 b.c1, K.add a.c2 b.c2⟩
  sub a b := ⟨K.sub a.c0 b.c0, K.sub a.c1 b.c1, K.sub a.c2 b.c2⟩
  mul a b := ⟨K.add (K.mul a.c0 b.c0) (K.mul N (K.add (K.mul a.c1 b.c2) (K.mul a.c2 b.c1))),
              K.add (K.add (K.mul a.c0 b.c1) (K.mul a.c1 b.c0)) (K.mul N (K.mul a.c2 b.c2)),
              K.add (K.add (K.mul a.c0 b.c2) (K.mul a.c1 b.c1)) (K.mul a.c2 b.c0)⟩
  neg a := ⟨K.neg a.c0, K.neg a.c1, K.neg a.c2⟩
  inv a :=
    let t0 := K.sub (K.mul a.c0 a.c0) (K.mul N (K.mul a.c1 a.c2))
    let t1 := K.sub (K.mul N (K.mul a.c2 a.c2)) (K.mul a.c0 a.c1)
    let t2 := K.sub (K.mul a.c1 a.c1) (K.mul a.c0 a.c2)
    let d := K.add (K.mul a.c0 t0) (K.mul N (K.add (K.mul a.c2 t1) (K.mul a.c1 t2)))
    let n := K.inv d
    ⟨K.mul t0 n, K.mul t1 n, K.mul t2 n⟩
  frob k a :=
    ⟨K.frob k a.c0,
     K.mul (K.pow N ((p ^ (k % (3 * K.arity)) - 1) / 3)) (K.frob k a.c1),
     K.mul (K.pow N (2 * (p ^ (k % (3 * K.arity)) - 1) / 3)) (K.frob k a.c2)⟩

/-- `Conj(a) = (a0, -a1)` (R241). -/
def conjQuad {α : Type} (K : Fld α) (a : Quad α) : Quad α := ⟨a.c0, K.neg a.c1⟩

end Sys2Proof.Machine
end

