-- ==== Sys2Proof/Machine/Derived.lean ====
section
/-! DEFINITION. The derived constants of rule R11, the representation functions of rule R12, the two
reduction units (rules R141, R142) and the fields of a configuration. All are functions of `Config`. -/

namespace Sys2Proof.Machine

/-- `R = 2^RBITS` (R11). -/
def montR (c : Config) : Nat := 2 ^ c.rbits

/-- `R1 = R mod p` (R11). -/
def montR1 (c : Config) : Nat := montR c % c.p

/-- `R2 = R^2 mod p` (R11). -/
def montR2 (c : Config) : Nat := montR c * montR c % c.p

/-- `RINV = R^-1 mod p` (R11). -/
def montRInv (c : Config) : Nat := invMod c.p (montR1 c)

/-- `EULER = (p-1)/2` (R11). -/
def euler (c : Config) : Nat := (c.p - 1) / 2

/-- How often 2 divides `n`, counting at most `k` times. -/
def twoPart : Nat → Nat → Nat
  | 0, _ => 0
  | k + 1, n => if n % 2 = 0 then twoPart k (n / 2) + 1 else 0

/-- `TS_S`: `p - 1 = 2^TS_S * TS_T` with `TS_T` odd (R11). -/
def tsS (c : Config) : Nat := twoPart (bitlen c.p) (c.p - 1)

/-- `TS_T` (R11). -/
def tsT (c : Config) : Nat := (c.p - 1) / 2 ^ tsS c

/-- `NQR_TO_T = NQR^TS_T mod p` (R11). -/
def nqrToT (c : Config) : Nat := powMod c.p c.nqr (tsT c)

/-- `TWO_INV = 2^-1 mod p` (R11). -/
def twoInv (c : Config) : Nat := invMod c.p 2

/-- `FEBYTES = ceil(MODBITS/8)` (R10). -/
def feBytes (c : Config) : Nat := (c.modbits + 7) / 8

/-- `NREC`, the number of records of a bank (R29). -/
def nrec (c : Config) : Nat :=
  (bitlen c.loopcount - 1) + (popcount c.loopcount - 1) + c.loopneg.toNat

/-- `MontMul(x, y) = x * y * RINV mod p` (R141, the unit's one-line contract). -/
def montMul (c : Config) (x y : Nat) : Nat := x * y * montRInv c % c.p

/-- `BarrettMul(x, y) = x * y mod p` (R142, the unit's one-line contract). -/
def barrettMul (c : Config) (x y : Nat) : Nat := x * y % c.p

/-! The step sequences of rules R141 and R142, which the spec gives for the builder of the units. No command
is defined by them: the one-line contracts above are the rule. -/

/-- `PINV = p^-1 mod R`, as a power, since the odd residues modulo `2^n` have order dividing `2^(n-1)`
(R11). -/
def montPInv (c : Config) : Nat := powMod (montR c) c.p (montR c / 2 - 1)

/-- `REDC(T)` for `0 ≤ T < p*R` (R141). -/
def redc (c : Config) (t : Nat) : Nat :=
  let q := (t % montR c) * montPInv c % montR c
  let u : Int := ((t : Int) - q * c.p) / montR c
  if u < 0 then (u + c.p).toNat else u.toNat

/-- `MU = floor(2^(2*MODBITS) / p)` (R11). -/
def barrettMu (c : Config) : Nat := 2 ^ (2 * c.modbits) / c.p

/-- The correction of the Barrett remainder: `n` conditional subtractions of `p` (R142). -/
def subtractUpTo (p : Nat) : Nat → Nat → Nat
  | 0, r => r
  | n + 1, r => if p ≤ r then subtractUpTo p n (r - p) else r

/-- `BarrettReduce(X)` for `0 ≤ X < p^2`, with at most two corrective subtractions (R142). -/
def barrettReduce (c : Config) (x : Nat) : Nat :=
  let q := x / 2 ^ (c.modbits - 1) * barrettMu c / 2 ^ (c.modbits + 1)
  subtractUpTo c.p 2 (x - q * c.p)

/-- `val`: the canonical value a cell's content stands for (R12). -/
def val (c : Config) (x : Nat) : Nat :=
  match c.redmode with
  | .barrett => x
  | .mont => x * montRInv c % c.p

/-- `rep`: the content that stands for a canonical value (R12). -/
def rep (c : Config) (a : Nat) : Nat :=
  match c.redmode with
  | .barrett => a
  | .mont => a * montR c % c.p

/-! The fields of a configuration. -/

def fp (c : Config) : Fld Fp := fpOps c.p

/-- R180 to R183. -/
def fp2 (c : Config) : Fld F2 := quadExt c.p (fp c) c.nr2

/-- R200 to R203. -/
def fp3 (c : Config) : Fld F3 := cubExt c.p (fp c) c.nr3

/-- Fp6 as 3-over-2 with non-residue `nr6` (R220, R222, R224). -/
def fp6Over2 (c : Config) (nr6 : F2) : Fld F6Over2 := cubExt c.p (fp2 c) nr6

/-- Fp6 as 2-over-3 with non-residue `nr6` (R221, R223, R224). -/
def fp6Over3 (c : Config) (nr6 : F3) : Fld F6Over3 := quadExt c.p (fp3 c) nr6

/-- `NR6` of a 3-over-2 configuration; a configuration of another kind has no Fp12 (R9) and no command
asks for it. -/
def nr6Over2 (c : Config) : F2 :=
  match c.f6 with
  | .over2 nr6 => nr6
  | _ => ⟨0, 0⟩

/-- Fp12 over the 3-over-2 Fp6 (R240 to R243). -/
def fp12 (c : Config) : Fld F12 := quadExt c.p (fp6Over2 c (nr6Over2 c)) c.nr12

/-- `Conj12(a) = (a0, -a1)` (R241). -/
def conj12 (c : Config) (a : F12) : F12 := conjQuad (fp6Over2 c (nr6Over2 c)) a

/-- An Fp value times an Fp2 value: both coordinates are scaled (R320, R323). -/
def scale2 (c : Config) (x : Fp) (a : F2) : F2 := ⟨x * a.c0 % c.p, x * a.c1 % c.p⟩

/-- An Fp value as an Fp2 value. -/
def embed2 (c : Config) (x : Fp) : F2 := ⟨x % c.p, 0⟩

/-- `TWIST_B = CURVE_B * TWIST^-1` in Fp2 (R11). -/
def twistB (c : Config) : F2 := (fp2 c).mul (embed2 c c.curveB) ((fp2 c).inv c.twist)

end Sys2Proof.Machine
end

