-- ==== Sys2Proof/Machine/CfgWF.lean ====
section
/-! DEFINITION. Which configurations are well formed: `CfgWF` of rule R9, condition by condition in the
order of its table. `Config.wfCheck` is the check a step makes (entry U1: a model refuses a configuration
that is not well formed); `Config.WF`, which statements assume, says beside it that `P` is prime in Mathlib's
sense. The two are equivalent (`Config.wf_iff` of Laws/Primes.lean). -/

namespace Sys2Proof.Machine

/-- No `e` with `d ≤ e < d + fuel` and `e * e ≤ n` divides `n`. -/
def noDivisor (n : Nat) : Nat → Nat → Bool
  | 0, _ => true
  | fuel + 1, d => if n < d * d then true else if n % d = 0 then false else noDivisor n fuel (d + 1)

/-- The modulus of BLS12-381 (95_test_vectors.md section 1.4), the one large modulus the spec gives. -/
def bls381P : Nat :=
  0x1a0111ea397fe69a4b1ba7b6434bacd764774b84f38512bf6730d2a0f6b0f6241eabfffeb153ffffb9feffffffffaaab

/-- `n` is prime (R9), by trial division. The modulus of BLS12-381, whose trial division would not end in any
useful time, is answered at once. The test is exact: `primeTest_iff` of Laws/Primes.lean. -/
def primeTest (n : Nat) : Bool := n == bls381P || (2 ≤ n && noDivisor n n 2)

def inFp (c : Config) (a : Fp) : Bool := a < c.p
def inFp2 (c : Config) (a : F2) : Bool := inFp c a.c0 && inFp c a.c1
def inFp3 (c : Config) (a : F3) : Bool := inFp c a.c0 && inFp c a.c1 && inFp c a.c2
def inFp6Over2 (c : Config) (a : F6Over2) : Bool := inFp2 c a.c0 && inFp2 c a.c1 && inFp2 c a.c2

/-- "Not an `n`-th power" in a field of `q` elements, by Euler's criterion: `a ≠ 0` and
`a^((q-1)/n) ≠ 1`. -/
def notPower {α : Type} [DecidableEq α] (K : Fld α) (q n : Nat) (a : α) : Bool :=
  a != K.zero && K.pow a ((q - 1) / n) != K.one

/-- `y^2 = x^3 + a*x + b` for an affine point. -/
def onCurve {α : Type} [DecidableEq α] (K : Fld α) (a b : α) (P : Aff α) : Bool :=
  K.sqr P.y == K.add (K.add (K.mul (K.sqr P.x) P.x) (K.mul a P.x)) b

/-- The condition on `F6KIND` and `NR6` (R9). -/
def f6Ok (c : Config) : Bool :=
  match c.f6 with
  | .none => true
  | .over2 n => c.hasFp2 && c.p % 3 == 1 && inFp2 c n &&
      notPower (fp2 c) (c.p ^ 2) 2 n && notPower (fp2 c) (c.p ^ 2) 3 n
  | .over3 n => c.hasFp3 && inFp3 c n && notPower (fp3 c) (c.p ^ 3) 2 n

/-- `F6KIND = 3OVER2`. -/
def isOver2 (c : Config) : Bool :=
  match c.f6 with
  | .over2 _ => true
  | _ => false

/-- The slots a chain step reads (R354). -/
def stepReads : ChainStep → List Slot
  | .csq _ s => [s]
  | .mul _ s1 s2 => [s1, s2]
  | .frb _ s _ => [s]
  | .uin _ s => [s]
  | .exz _ s => [s]

/-- The slot a chain step writes (R354). -/
def stepWrites : ChainStep → Slot
  | .csq d _ => d
  | .mul d _ _ => d
  | .frb d _ _ => d
  | .uin d _ => d
  | .exz d _ => d

/-- Every source slot is in `written` or the destination of an earlier step, and `out` is written (R356). -/
def chainReadsOk (out : Slot) : List ChainStep → List Slot → Bool
  | [], written => written.contains out
  | st :: rest, written =>
    (stepReads st).all (fun s => written.contains s) && chainReadsOk out rest (stepWrites st :: written)

/-- The condition on `CHAIN` and `CHAINOUT` (R356). -/
def chainOk (c : Config) : Bool := c.chain.length ≤ 64 && chainReadsOk c.chainout c.chain [0]

/-- The element `v = (0, 1, 0)` of the 3-over-2 Fp6 (R9, `HAS_PAIR`). -/
def vElement : F6Over2 := ⟨⟨0, 0⟩, ⟨1, 0⟩, ⟨0, 0⟩⟩

/-- The conditions on the modulus and its constants (R9, rows `P` to `NQR`). -/
def modulusOk (c : Config) : Bool :=
  primeTest c.p && (c.p % 2 == 1 && 3 < c.p &&
    c.modbits == bitlen c.p && 2 ≤ c.modbits && c.modbits ≤ Config.maxbits &&
    c.modbits ≤ c.rbits &&
    inFp c c.nqr && powMod c.p c.nqr ((c.p - 1) / 2) == c.p - 1)

/-- The conditions on the towers (R9, rows `HAS_FP2` to `NR12`). -/
def towersOk (c : Config) : Bool :=
  inFp c c.nr2 && (!c.hasFp2 || notPower (fp c) c.p 2 c.nr2) &&
  inFp c c.nr3 && (!c.hasFp3 || (c.p % 3 == 1 && notPower (fp c) c.p 3 c.nr3)) &&
  f6Ok c &&
  inFp6Over2 c c.nr12 &&
  (!c.hasFp12 || (isOver2 c && notPower (fp6Over2 c (nr6Over2 c)) (c.p ^ 6) 2 c.nr12))

/-- The conditions on the groups (R9, rows `CURVE_A` to `GEN2`). -/
def groupsOk (c : Config) : Bool :=
  inFp c c.curveA && inFp c c.curveB && (4 * c.curveA ^ 3 + 27 * c.curveB ^ 2) % c.p != 0 &&
  inFp c c.gen1.x && inFp c c.gen1.y && onCurve (fp c) c.curveA c.curveB c.gen1 &&
  inFp2 c c.twist && inFp2 c c.gen2.x && inFp2 c c.gen2.y &&
  (!c.hasG2 || (c.hasFp2 && c.curveA == 0 && c.twist != (fp2 c).zero &&
    onCurve (fp2 c) (fp2 c).zero (twistB c) c.gen2))

/-- The conditions on the pairing engine (R9, rows `HAS_PAIR` to `CHAIN`). -/
def pairingOk (c : Config) : Bool :=
  (!c.hasPair || (c.hasG2 && c.hasFp12 && c.twist == nr6Over2 c && c.nr12 == vElement)) &&
  1 ≤ c.loopcount && chainOk c

end Sys2Proof.Machine

namespace Sys2Proof

/-- The check of `CfgWF` (R9) that a step makes before anything else (U1). -/
def Config.wfCheck (c : Config) : Bool :=
  Machine.modulusOk c && (Machine.towersOk c && (Machine.groupsOk c && Machine.pairingOk c))

/-- `CfgWF` (R9). The first part follows from the second and is said for the reader. -/
def Config.WF (c : Config) : Prop := Nat.Prime c.p ∧ c.wfCheck = true

end Sys2Proof
end

