-- ==== Sys2Proof/Machine/Presets.lean ====
section
/-! DEFINITION. The four example configurations of 95_test_vectors.md section 1, as data. The spec fixes
no configuration (it is a parameter, entry U15); these are the records its worked examples use. -/

namespace Sys2Proof.Machine

/-- The BN-family chain of R362 (95_test_vectors.md section 8.5). -/
def chainBN : List ChainStep :=
  [.exz 1 0, .uin 1 1, .csq 2 1, .csq 3 2, .mul 4 3 2, .exz 5 4, .uin 5 5, .csq 6 5] ++
  [.exz 7 6, .uin 7 7, .uin 8 4, .uin 9 7, .mul 10 9 5, .mul 11 10 8, .mul 12 11 2] ++
  [.mul 13 11 5, .mul 14 13 0, .frb 15 12 1, .mul 16 15 14, .frb 17 11 2] ++
  [.mul 18 17 16, .uin 19 0, .mul 20 19 12, .frb 21 20 3, .mul 22 21 18]

/-- The BLS12-family chain of R362. -/
def chainBLS12 : List ChainStep :=
  [.csq 1 0, .uin 1 1, .exz 2 0, .csq 3 2, .mul 4 1 2, .exz 5 4, .exz 6 5, .exz 7 6] ++
  [.mul 8 7 3, .exz 9 8, .uin 10 4, .mul 11 10 9, .mul 12 0 11, .uin 13 0] ++
  [.mul 14 5 0, .frb 15 14 3, .mul 16 8 13, .frb 17 16 1, .mul 18 2 6, .frb 19 18 2] ++
  [.mul 20 19 15, .mul 21 20 17, .mul 22 21 12]

/-- `WTAB1` of the toy configurations. -/
def toyWtab1 : Vector (BitVec 32) 22 :=
  #v[4, 10, 32, 100, 300, 1000, 0, 0, 0, 0, 0, 0, 0, 0, 0, 0, 0, 0, 0, 0, 0, 0]

/-- `WTAB2` of the toy configurations. -/
def toyWtab2 : Vector (BitVec 32) 22 :=
  #v[2, 8, 20, 64, 200, 640, 0, 0, 0, 0, 0, 0, 0, 0, 0, 0, 0, 0, 0, 0, 0, 0]

/-- TOY-BN (95_test_vectors.md section 1.1). -/
def toyBN : Config where
  p := 103
  modbits := 7
  redmode := .mont
  rbits := 8
  nqr := 3
  hasFp2 := true
  nr2 := 102
  hasFp3 := true
  nr3 := 5
  f6 := .over2 ⟨2, 1⟩
  hasFp12 := true
  nr12 := vElement
  curveA := 0
  curveB := 5
  gen1 := ⟨2, 42⟩
  hasG2 := true
  twist := ⟨2, 1⟩
  gen2 := ⟨⟨86, 29⟩, ⟨88, 47⟩⟩
  hasPair := true
  loopcount := 6
  loopneg := false
  zabs := 1
  zneg := false
  chain := chainBN
  chainout := 22
  wtab1 := toyWtab1
  wtab2 := toyWtab2

/-- TOY-BLS12 (95_test_vectors.md section 1.2), with `NR2 = 2` as 42_towers_fp2_fp3.md gives it: the 36 of
section 1.2 is a square modulo 37, so it is not in `CfgWF` and gives none of the vectors (assumption 5). -/
def toyBLS12 : Config where
  p := 37
  modbits := 6
  redmode := .barrett
  rbits := 8
  nqr := 2
  hasFp2 := true
  nr2 := 2
  hasFp3 := true
  nr3 := 2
  f6 := .over2 ⟨0, 3⟩
  hasFp12 := true
  nr12 := vElement
  curveA := 0
  curveB := 4
  gen1 := ⟨24, 29⟩
  hasG2 := true
  twist := ⟨0, 3⟩
  gen2 := ⟨⟨28, 9⟩, ⟨27, 28⟩⟩
  hasPair := true
  loopcount := 2
  loopneg := true
  zabs := 2
  zneg := true
  chain := chainBLS12
  chainout := 22
  wtab1 := toyWtab1
  wtab2 := toyWtab2

/-- TOY-BN-2over3 (95_test_vectors.md section 1.3). -/
def toyBN2over3 : Config :=
  { toyBN with f6 := .over3 ⟨0, 1, 0⟩, hasFp12 := false, hasPair := false }

/-- BLS12-381-G1 (95_test_vectors.md section 1.4). `NQR` there is "any non-residue"; 2 is one. `RBITS`, 384, is the default of R9. The fields
of the units it does not have are zero. -/
def bls381G1 : Config where
  p := bls381P
  modbits := 381
  redmode := .mont
  nqr := 2
  hasFp2 := false
  nr2 := 0
  hasFp3 := false
  nr3 := 0
  f6 := .none
  hasFp12 := false
  nr12 := ⟨⟨0, 0⟩, ⟨0, 0⟩, ⟨0, 0⟩⟩
  curveA := 0
  curveB := 4
  gen1 := ⟨0x17f1d3a73197d7942695638c4fa9ac0fc3688c4f9774b905a14e3a3f171bac586c55e83ff97a1aeffb3af00adb22c6bb,
           0x08b3f481e3aaa0f1a09e30ed741d8ae4fcf5e095d5d00af600db18cb2c04b3edd03cc744a2888ae40caa232946c5e7e1⟩
  hasG2 := false
  twist := ⟨0, 0⟩
  gen2 := ⟨⟨0, 0⟩, ⟨0, 0⟩⟩
  hasPair := false
  loopcount := 1
  loopneg := false
  zabs := 0
  zneg := false
  chain := []
  chainout := 0
  wtab1 := Vector.replicate 22 0
  wtab2 := Vector.replicate 22 0

/-- The configuration of the model's one reset state. DESIGN CHOICE (assumption 2): the spec leaves the
configuration open; TOY-BN is the record of its worked examples that has every unit but the 2-over-3 Fp6. -/
def resetConfig : Config := toyBN

end Sys2Proof.Machine
end

