-- ==== Sys2Proof/Machine/State.lean ====
section
/-! DEFINITION. The state of the machine: every element of rule R20, the configuration the spec takes as an
argument (rule R7), and the model's own fields (the schedule of the host, the last word read, the phase to
restore on a fault); the outcomes that are no next state; the state after hard reset (rule R411). -/

namespace Sys2Proof.Machine

/-- `MLSTATE`, the Miller-loop phase shown to the host (R49); encoding 3 never occurs. -/
inductive MLState where
  /-- 0, not-yet-started. -/
  | notStarted
  /-- 1, accumulating: a Miller-loop command is running. -/
  | accumulating
  /-- 2, finished. -/
  | finished
deriving DecidableEq, Repr

/-- One line-function coefficient record (R29). -/
structure LineRec where
  ell0  : F2
  ellVV : F2
  ellVW : F2
deriving DecidableEq, Repr, Inhabited

/-- The content of a coefficient bank: `(QX, QY)` and the records, as canonical values (R29). -/
structure Bank where
  qx  : F2
  qy  : F2
  recs : List LineRec
deriving DecidableEq, Repr, Inhabited

/-- What happens next at the CORE's ports: a host transfer (R40), a hard reset (R410), or one step of the
sequencer. The interleaving is arbitrary (R391, U13), so a state carries it as data. -/
inductive Event where
  /-- The sequencer takes its step: it executes the accepted command, if there is one (R92). -/
  | sequencer
  /-- `HostRead` of the word at byte offset `4 * haddr`; the port has address bits `[12:2]` only (R40). -/
  | hostRead (haddr : BitVec 11)
  /-- `HostWrite` of `hwdata` to byte offset `4 * haddr` (R40). -/
  | hostWrite (haddr : BitVec 11) (hwdata : Word)
  /-- `rst_n` driven low (R410). What XMEM then holds is unspecified (R411), so the event names the bytes
  it is found to hold; the bytes it does not name are 0. -/
  | hardReset (xmem : List Host.Cell)
deriving DecidableEq, Repr

/-- Why the machine stops with a fault: never. The spec has no stuck state (U17), and its nine fault codes
are fault entries, which are next states (R385). -/
inductive Fault where
deriving DecidableEq, Repr

/-- Why the model refuses to go on. -/
inductive Refusal where
  /-- Raised by an arm of `exec` whose command has no meaning yet. Safe: nothing is claimed of it. -/
  | notModelled (mnemonic : String)
  /-- Raised by `step` when the configuration is not well formed (R9, U1: "a model refuses the
  configuration"). Safe: nothing is claimed of such an instance. -/
  | configNotWellFormed
deriving DecidableEq, Repr

/-- The state of the machine. -/
structure State where
  /-- `Config` (R9): an argument of the step relation, not architectural state (R7); no step changes it. -/
  cfg : Config
  /-- `F[i]`: the raw contents of the field cells (R21, R22). -/
  f : Vector Nat 128
  /-- `FV[i]`: the valid bits of the cells (R23). -/
  fv : Vector Bool 128
  /-- `K[i]`: the integer registers (R27). -/
  k : Vector (BitVec 768) 8
  /-- `KV[i]`: their valid bits (R23). -/
  kv : Vector Bool 8
  /-- `CM[b]`: the coefficient banks (R29). -/
  cm : Vector Bank 2
  /-- `CMV[b]`: their valid bits (R23). -/
  cmv : Vector Bool 2
  /-- `T`, the test flag (R28). -/
  t : Bool
  /-- `XMEM`, the exchange memory, in canonical form (R60; Machine/Memory.lean). -/
  xmem : List Host.Cell
  /-- `CTRL` (R43): bit 0 IE_DONE, bit 1 IE_FAULT, bit 2 ENDIAN, the others 0. -/
  ctrl : Word
  /-- `STATUS.BUSY` (R44). -/
  busy : Bool
  /-- `STATUS.DONE` (R44). -/
  done : Bool
  /-- `STATUS.FAULT` (R44). -/
  fault : Bool
  /-- `STATUS.HOSTERR` (R44). -/
  hosterr : Bool
  /-- `MLSTATE` (R49). -/
  mlstate : MLState
  /-- `FCODE[3:0]` (R46). -/
  fcode : BitVec 4
  /-- `FCMD` (R47). -/
  fcmd : Word
  /-- `PEND`, the accepted command word, meaningful only while BUSY (R45). -/
  pend : Word
  /-- The model's own: `MLSTATE` as it was before the running command was accepted, which a fault restores
  (R49, R385). -/
  mlPrev : MLState
  /-- The model's own: the word the last `HostRead` put on `hrdata` (R40). -/
  hrdata : Word
  /-- The model's own: what happens next at the ports, first event first. When it is empty the host does
  nothing more and the sequencer runs. -/
  inputs : List Event
deriving DecidableEq, Repr

/-- A bank whose content is zero, with the records of its configuration (R29). -/
def zeroBank (c : Config) : Bank :=
  ⟨⟨0, 0⟩, ⟨0, 0⟩, List.replicate (nrec c) ⟨⟨0, 0⟩, ⟨0, 0⟩, ⟨0, 0⟩⟩⟩

/-- The state after hard reset of an instance with configuration `c` (R411), with XMEM holding 0 in every
byte and nothing scheduled. DESIGN CHOICE (assumptions 3 and 6): the contents of cells, registers and
banks, XMEM and `PEND`, which R411 leaves unspecified, are 0. -/
def State.resetOf (c : Config) : State where
  cfg := c
  f := Vector.replicate 128 0
  fv := Vector.replicate 128 false
  k := Vector.replicate 8 0
  kv := Vector.replicate 8 false
  cm := Vector.replicate 2 (zeroBank c)
  cmv := Vector.replicate 2 false
  t := false
  xmem := []
  ctrl := 0
  busy := false
  done := false
  fault := false
  hosterr := false
  mlstate := .notStarted
  fcode := 0
  fcmd := 0
  pend := 0
  mlPrev := .notStarted
  hrdata := 0
  inputs := []

/-- The machine right after hard reset (R411), in the configuration `resetConfig` (assumption 2). -/
def State.reset : State := State.resetOf resetConfig

end Sys2Proof.Machine
end

