-- ==== Sys2Proof/Machine/Memory.lean ====
section
/-! DEFINITION. XMEM: 4096 bytes (rules R60, R62), held as a list of address and byte pairs in one
canonical form: addresses strictly rising and below 4096, and no entry equal to what an unlisted address
reads as. -/

namespace Sys2Proof.Machine

/-- What an unlisted address reads as. DESIGN CHOICE (assumption 3): 0. Any content of XMEM is a list, so a
statement about every state covers every initial content (R72, U4). -/
def unlistedByte : Byte := 0

/-- The byte at address `a`. -/
def memRead : List Host.Cell → Nat → Byte
  | [], _ => unlistedByte
  | (b, v) :: m, a => if a = b then v else memRead m a

/-- The cells `m` with `(a, v)` in front, unless `v` is what an unlisted address reads as. -/
def memCons (a : Nat) (v : Byte) (m : List Host.Cell) : List Host.Cell :=
  if v = unlistedByte then m else (a, v) :: m

/-- Writing `v` at address `a`, keeping the canonical form. -/
def memWrite : List Host.Cell → Nat → Byte → List Host.Cell
  | [], a, v => memCons a v []
  | (b, w) :: m, a, v =>
    if a < b then memCons a v ((b, w) :: m)
    else if a = b then memCons a v m
    else (b, w) :: memWrite m a v

/-- Every address of `m` is at least `lo` and below 4096, addresses rise strictly, and no byte is the
unlisted one. -/
def memWfFrom : Nat → List Host.Cell → Bool
  | _, [] => true
  | lo, (a, v) :: m => lo ≤ a && a < Config.xbytes && v != unlistedByte && memWfFrom (a + 1) m

/-- The canonical form holds. -/
def memWf (m : List Host.Cell) : Bool := memWfFrom 0 m

/-- Writing the bytes of a list at ascending addresses from `a` (R62). -/
def memWriteList : List Host.Cell → Nat → List Byte → List Host.Cell
  | m, _, [] => m
  | m, a, v :: vs => memWriteList (memWrite m a v) (a + 1) vs

/-- The bytes `XMEM[a], ..., XMEM[a+n-1]`, lowest address first (R62). -/
def memReadList (m : List Host.Cell) (a : Nat) : Nat → List Byte
  | 0 => []
  | n + 1 => memRead m a :: memReadList m (a + 1) n

/-- The memory that holds these cells, a later one over an earlier one, in canonical form; addresses that
XMEM does not have are left out. -/
def memOfCells (cs : List Host.Cell) : List Host.Cell :=
  cs.foldl (fun m c => if c.1 < Config.xbytes then memWrite m c.1 c.2 else m) []

/-! Byte order (R64). -/

/-- `FromBytes` with `ENDIAN = 0`: the first byte is the least significant (R64). -/
def fromBytesLE : List Byte → Nat
  | [] => 0
  | b :: bs => b.toNat + 256 * fromBytesLE bs

/-- `FromBytes(b, n)` (R64). -/
def fromBytes (bigEndian : Bool) (bs : List Byte) : Nat :=
  fromBytesLE (if bigEndian then bs.reverse else bs)

/-- The `n` low bytes of `v`, least significant first (R64). -/
def toBytesLE (v : Nat) : Nat → List Byte
  | 0 => []
  | n + 1 => BitVec.ofNat 8 v :: toBytesLE (v / 256) n

/-- `ToBytes(v, n)`: the list `b` with `FromBytes(b, n) = v`, for `v < 256^n` (R64). -/
def toBytes (bigEndian : Bool) (v n : Nat) : List Byte :=
  if bigEndian then (toBytesLE v n).reverse else toBytesLE v n

end Sys2Proof.Machine
end

