-- ==== Sys2Proof/Machine/Ops.lean ====
section
/-! DEFINITION. The named operations on the state: cells, integer registers, banks and XMEM with their
valid bits (rules R13, R23, R62), fault entry (rules R371, R385) and completion (rule R92 step 7), and the
order of checks every command follows (rules R92, R372). -/

namespace Sys2Proof.Machine

/-! Fault codes. -/

/-- The nine fault codes (R371). -/
inductive FaultCode where
  | illegal
  | unsupp
  | regrange
  | uninit
  | xaddr
  | range
  | invzero
  | nosqrt
  | identity
deriving DecidableEq, Repr

/-- The value `FCODE` takes (R371). -/
def faultCode : FaultCode → BitVec 4
  | .illegal => 1
  | .unsupp => 2
  | .regrange => 3
  | .uninit => 4
  | .xaddr => 5
  | .range => 6
  | .invzero => 7
  | .nosqrt => 8
  | .identity => 9

/-- The result of a command's own rule: the state with its writes, or the fault it raises. -/
abbrev Result := Except FaultCode State

/-- The outcome of a step of this machine. -/
abbrev Out := Host.Outcome State Fault Refusal

/-! Cells. -/

/-- The raw content of cell `i` (R13, R22). -/
def rawCell (s : State) (i : Nat) : Nat := (s.f[i]?).getD 0

/-- `FV[i]` (R23). -/
def cellValid (s : State) (i : Nat) : Bool := (s.fv[i]?).getD false

/-- The canonical value of cell `i`, `val(F[i])` (R12, R13). -/
def canon (s : State) (i : Nat) : Nat := val s.cfg (rawCell s i)

/-- `F[i] <- v`: writes the raw content and sets the valid bit (R13, R23). -/
def setCell (s : State) (i v : Nat) : State :=
  { s with f := s.f.setIfInBounds i v, fv := s.fv.setIfInBounds i true }

/-- Raw contents written to the consecutive cells from `b`. -/
def setCells : State → Nat → List Nat → State
  | s, _, [] => s
  | s, b, v :: vs => setCells (setCell s b v) (b + 1) vs

/-- Canonical values written to the consecutive cells from `b`, each as `rep` of it (`WrFp`, R13). -/
def setValues (s : State) (b : Nat) (vs : List Nat) : State :=
  setCells s b (vs.map (rep s.cfg))

/-! Integer registers. -/

/-- `K[i]` as an unsigned integer (R27). -/
def kReg (s : State) (i : KIdx) : Nat := (s.k[i.toNat]'(i.isLt)).toNat

/-- `KV[i]` (R23). -/
def kValid (s : State) (i : KIdx) : Bool := s.kv[i.toNat]'(i.isLt)

/-- `K[i] <- v`: writes 768 bits and sets the valid bit (R13, R23). -/
def setK (s : State) (i : KIdx) (v : Nat) : State :=
  { s with k := s.k.set i.toNat (BitVec.ofNat 768 v) i.isLt, kv := s.kv.set i.toNat true i.isLt }

/-! Banks. -/

/-- `CM[b]` (R29). -/
def bank (s : State) (b : BankIdx) : Bank := s.cm[b.toNat]'(b.isLt)

/-- `CMV[b]` (R23). -/
def bankValid (s : State) (b : BankIdx) : Bool := s.cmv[b.toNat]'(b.isLt)

/-- `CM[b] <- B; CMV[b] <- 1`: a bank is replaced whole (R29). -/
def setBank (s : State) (b : BankIdx) (B : Bank) : State :=
  { s with cm := s.cm.set b.toNat B b.isLt, cmv := s.cmv.set b.toNat true b.isLt }

/-! XMEM and CTRL. -/

/-- `CTRL.ENDIAN`: big-endian when set (R43, R64). -/
def endianBig (s : State) : Bool := s.ctrl.getLsbD 2

/-- `MemRead(addr, n)` read as an integer in the byte order of `CTRL.ENDIAN` (R62, R64). -/
def xmemLoad (s : State) (addr n : Nat) : Except FaultCode Nat :=
  if addr + n ≤ Config.xbytes then .ok (fromBytes (endianBig s) (memReadList s.xmem addr n))
  else .error .xaddr

/-- `MemWrite(addr, n, ToBytes(v, n))` (R62, R64). -/
def xmemStore (s : State) (addr n v : Nat) : Result :=
  if addr + n ≤ Config.xbytes then
    .ok { s with xmem := memWriteList s.xmem addr (toBytes (endianBig s) v n) }
  else .error .xaddr

/-! Fault entry and completion. -/

/-- Taking a fault `c` on the accepted command word (R385): FAULT, FCODE, FCMD and BUSY, `MLSTATE` as it was
before acceptance, and nothing else. There is no return from it but a reset (R386). -/
def takeFault (c : FaultCode) (s : State) : State :=
  { s with fault := true, fcode := faultCode c, fcmd := s.pend, busy := false, mlstate := s.mlPrev }

/-- Completion without fault: `BUSY <- 0`, `DONE <- 1` (R92 step 7). -/
def complete (s : State) : State := { s with busy := false, done := true }

/-- The end of a command: its writes and completion together, or the fault entry (R92, R68). -/
def finish (s : State) : Result → Out
  | .ok t => .next (complete t)
  | .error c => .next (takeFault c s)

/-! The checks before a command's own rule. -/

/-- What a command needs before its own rule is looked at (R92 steps 2 to 4). A span is a base and an
arity (R15). -/
structure Needs where
  /-- The feature requirement of R96 holds. -/
  feature : Bool := true
  /-- The spans of the cell operands it writes. -/
  dst : List (Nat × Nat) := []
  /-- The spans of the cell operands it reads. -/
  src : List (Nat × Nat) := []
  /-- The integer registers it reads. -/
  regs : List KIdx := []
  /-- The banks it reads. -/
  banks : List BankIdx := []
deriving DecidableEq, Repr

/-- `b + n <= 128` (R15, R92 step 3). -/
def spanFits (sp : Nat × Nat) : Bool := sp.1 + sp.2 ≤ Config.nreg

/-- Every cell of the span is valid (R92 step 4). -/
def spanValid (s : State) (sp : Nat × Nat) : Bool :=
  (List.range sp.2).all fun i => cellValid s (sp.1 + i)

/-- Every source of the command is valid (R92 step 4). -/
def sourcesValid (n : Needs) (s : State) : Bool :=
  n.src.all (spanValid s) && n.regs.all (kValid s) && n.banks.all (bankValid s)

/-- The first check that fails, in the order of R92: UNSUPP, REGRANGE, UNINIT (R372). -/
def checkNeeds (n : Needs) (s : State) : Option FaultCode :=
  if n.feature = false then some .unsupp
  else if (n.dst ++ n.src).all spanFits = false then some .regrange
  else if sourcesValid n s = false then some .uninit
  else none

/-- A command after decoding (R92 steps 2 to 7): the checks, then its own rule `act`, then its writes. -/
def command (n : Needs) (act : State → Result) (s : State) : Out :=
  match checkNeeds n s with
  | some c => .next (takeFault c s)
  | none => finish s (act s)

end Sys2Proof.Machine
end

