-- ==== Sys2Proof/Machine/Operands.lean ====
section
/-! DEFINITION. The operand forms: elements of any field, points and affine points in consecutive cells
(rules R15, R25, R26), read through `val` and written through `rep` (rule R13), and the shapes of command
that read one or two operands and write one. -/

namespace Sys2Proof.Machine

variable {α β : Type}

/-- The element at base `b`, `Fp(b)`, `Fp2(b)`, ... (R13). -/
def readElem (K : Fld α) (s : State) (b : Nat) : α := K.get (canon s) b

/-- `WrFp(b, a)`, `WrFp2(b, a)`, ... (R13). -/
def writeElem (K : Fld α) (s : State) (b : Nat) (a : α) : State := setValues s b (K.put a)

/-- The affine point at base `b`: X, then Y (R26). -/
def readAff (K : Fld α) (s : State) (b : Nat) : Aff α :=
  ⟨readElem K s b, readElem K s (b + K.arity)⟩

/-- The Jacobian point at base `b`: X, Y, Z (R26). -/
def readPt (K : Fld α) (s : State) (b : Nat) : Pt α :=
  ⟨readElem K s b, readElem K s (b + K.arity), readElem K s (b + 2 * K.arity)⟩

def writeAff (K : Fld α) (s : State) (b : Nat) (P : Aff α) : State :=
  setValues s b (K.put P.x ++ K.put P.y)

def writePt (K : Fld α) (s : State) (b : Nat) (P : Pt α) : State :=
  setValues s b (K.put P.x ++ K.put P.y ++ K.put P.z)

/-- The span of an element of `K` at a cell index. -/
def elemSpan (K : Fld α) (b : CellIdx) : Nat × Nat := (b.toNat, K.arity)

/-- The span of an affine point (R15). -/
def affSpan (K : Fld α) (b : CellIdx) : Nat × Nat := (b.toNat, 2 * K.arity)

/-- The span of a Jacobian point (R15). -/
def ptSpan (K : Fld α) (b : CellIdx) : Nat × Nat := (b.toNat, 3 * K.arity)

/-- A command that writes an element computed from two elements (format R3). -/
def elemOp2 (feature : Bool) (K : Fld α) (op : α → α → α) (rd rs1 rs2 : CellIdx) (s : State) : Out :=
  command
    { feature := feature, dst := [elemSpan K rd], src := [elemSpan K rs1, elemSpan K rs2] }
    (fun s => .ok (writeElem K s rd.toNat (op (readElem K s rs1.toNat) (readElem K s rs2.toNat)))) s

/-- A command that writes an element computed from one element, or raises a value fault (format R2). -/
def elemOp1? (feature : Bool) (K : Fld α) (op : α → Except FaultCode α) (rd rs1 : CellIdx)
    (s : State) : Out :=
  command
    { feature := feature, dst := [elemSpan K rd], src := [elemSpan K rs1] }
    (fun s => (op (readElem K s rs1.toNat)).map (writeElem K s rd.toNat)) s

/-- A command that writes an element computed from one element (formats R2 and RI). -/
def elemOp1 (feature : Bool) (K : Fld α) (op : α → α) (rd rs1 : CellIdx) (s : State) : Out :=
  elemOp1? feature K (fun a => .ok (op a)) rd rs1 s

/-- A command that writes an element computed from an element and an integer register (format RK). -/
def elemOpK (feature : Bool) (K : Fld α) (op : α → Nat → α) (rd rs1 : CellIdx) (k : KIdx)
    (s : State) : Out :=
  command
    { feature := feature, dst := [elemSpan K rd], src := [elemSpan K rs1], regs := [k] }
    (fun s => .ok (writeElem K s rd.toNat (op (readElem K s rs1.toNat) (kReg s k)))) s

/-- The inverse, which faults INVZERO on the zero element (R153, R189, R379). -/
def invOrFault [DecidableEq α] (K : Fld α) (a : α) : Except FaultCode α :=
  if a = K.zero then .error .invzero else .ok (K.inv a)

end Sys2Proof.Machine
end

