-- ==== Sys2Proof/Machine/Flags.lean ====
section
/-! DEFINITION. The test flag `T` and the commands' shapes that write it (rule R28); the registers the host
reads: STATUS (R44), CAP (R42), ID (R41), FCODE (R46); the interrupt output (R50). -/

namespace Sys2Proof.Machine

variable {α : Type}

/-- `T <- b` (R13, R28). -/
def setT (s : State) (b : Bool) : State := { s with t := b }

/-- A command that writes `T` from one span of cells (format T1). -/
def testOp1 (feature : Bool) (span : Nat × Nat) (test : State → Bool) (s : State) : Out :=
  command { feature := feature, src := [span] } (fun s => .ok (setT s (test s))) s

/-- A command that writes `T` from two spans of cells (format T2). -/
def testOp2 (feature : Bool) (span1 span2 : Nat × Nat) (test : State → Bool) (s : State) : Out :=
  command { feature := feature, src := [span1, span2] } (fun s => .ok (setT s (test s))) s

/-- Is the element at `rs1` the zero of its field (R191, R211, R232, R251)? -/
def elemIsZero [DecidableEq α] (K : Fld α) (rs1 : CellIdx) (s : State) : Bool :=
  readElem K s rs1.toNat == K.zero

/-- Are the elements at `rs1` and `rs2` equal (R192, R212, R233, R252)? -/
def elemEq [DecidableEq α] (K : Fld α) (rs1 rs2 : CellIdx) (s : State) : Bool :=
  readElem K s rs1.toNat == readElem K s rs2.toNat

/-- The value of `MLSTATE` in STATUS (R49). -/
def mlCode : MLState → BitVec 2
  | .notStarted => 0
  | .accumulating => 1
  | .finished => 2

/-- One bit of a register as a word. -/
def flagBit (b : Bool) (i : Nat) : Word := if b then 1 <<< i else 0

/-- STATUS as the host reads it (R44). -/
def statusWord (s : State) : Word :=
  flagBit s.busy 0 ||| flagBit s.done 1 ||| flagBit s.fault 2 ||| flagBit s.t 3 |||
  flagBit s.hosterr 4 ||| ((mlCode s.mlstate).setWidth 32 <<< 5) |||
  flagBit (bankValid s 0) 7 ||| flagBit (bankValid s 1) 8

/-- ID, constant (R41). -/
def idWord : Word := 0x4D530009

/-- The field F6KIND of CAP (R42). -/
def f6KindCode (c : Config) : Word :=
  match c.f6 with
  | .none => 0
  | .over2 _ => 1
  | .over3 _ => 2

/-- CAP, a function of the configuration (R42). -/
def capWord (c : Config) : Word :=
  (BitVec.ofNat 10 c.modbits).setWidth 32 ||| flagBit (c.redmode == .mont) 10 |||
  flagBit c.hasFp2 11 ||| flagBit c.hasFp3 12 ||| (f6KindCode c <<< 13) |||
  flagBit c.hasFp12 15 ||| flagBit c.hasG2 16 ||| flagBit c.hasPair 17 |||
  flagBit c.loopneg 18 ||| flagBit c.zneg 19 ||| flagBit (c.curveA == 0) 20

/-- FCODE as the host reads it: bits `[31:4]` are 0 (R46). -/
def fcodeWord (s : State) : Word := s.fcode.setWidth 32

/-- `CTRL.IE_DONE` (R43). -/
def ieDone (s : State) : Bool := s.ctrl.getLsbD 0

/-- `CTRL.IE_FAULT` (R43). -/
def ieFault (s : State) : Bool := s.ctrl.getLsbD 1

/-- The interrupt output, a level (R50, R390). -/
def irq (s : State) : Bool := (s.done && ieDone s) || (s.fault && ieFault s)

end Sys2Proof.Machine
end

