-- ==== Sys2Proof/Machine/BaseField.lean ====
section
/-! DEFINITION. The reduction units on raw content (rules R144 to R147) and the base field commands (rules
R148 to R162). -/

namespace Sys2Proof.Machine

/-! Commands on raw content. -/

/-- A command that writes one raw content computed from two (R144, R145). -/
def rawOp2 (op : Config → Nat → Nat → Nat) (rd rs1 rs2 : CellIdx) (s : State) : Out :=
  command { dst := [(rd.toNat, 1)], src := [(rs1.toNat, 1), (rs2.toNat, 1)] }
    (fun s => .ok (setCell s rd.toNat (op s.cfg (rawCell s rs1.toNat) (rawCell s rs2.toNat)))) s

/-- A command that writes one raw content computed from one (R146, R147, R162). -/
def rawOp1 (op : Config → Nat → Nat) (rd rs1 : CellIdx) (s : State) : Out :=
  command { dst := [(rd.toNat, 1)], src := [(rs1.toNat, 1)] }
    (fun s => .ok (setCell s rd.toNat (op s.cfg (rawCell s rs1.toNat)))) s

/-- MMUL (R144): `MontMul` on raw content, whatever `REDMODE` is. -/
def execMmul (rd rs1 rs2 : CellIdx) (s : State) : Out := rawOp2 montMul rd rs1 rs2 s

/-- BMUL (R145): `BarrettMul` on raw content. -/
def execBmul (rd rs1 rs2 : CellIdx) (s : State) : Out := rawOp2 barrettMul rd rs1 rs2 s

/-- TOMONT (R146): `MontMul(x, R2)`. -/
def execTomont (rd rs1 : CellIdx) (s : State) : Out :=
  rawOp1 (fun c x => montMul c x (montR2 c)) rd rs1 s

/-- FROMMONT (R147): `MontMul(x, 1)`. -/
def execFrommont (rd rs1 : CellIdx) (s : State) : Out :=
  rawOp1 (fun c x => montMul c x 1) rd rs1 s

/-! Field arithmetic. -/

/-- FADD (R148). -/
def execFadd (rd rs1 rs2 : CellIdx) (s : State) : Out :=
  elemOp2 true (fp s.cfg) (fp s.cfg).add rd rs1 rs2 s

/-- FSUB (R149). -/
def execFsub (rd rs1 rs2 : CellIdx) (s : State) : Out :=
  elemOp2 true (fp s.cfg) (fp s.cfg).sub rd rs1 rs2 s

/-- FMUL (R150). -/
def execFmul (rd rs1 rs2 : CellIdx) (s : State) : Out :=
  elemOp2 true (fp s.cfg) (fp s.cfg).mul rd rs1 rs2 s

/-- FSQR (R151). -/
def execFsqr (rd rs1 : CellIdx) (s : State) : Out :=
  elemOp1 true (fp s.cfg) (fp s.cfg).sqr rd rs1 s

/-- FNEG (R152). -/
def execFneg (rd rs1 : CellIdx) (s : State) : Out :=
  elemOp1 true (fp s.cfg) (fp s.cfg).neg rd rs1 s

/-- FINV (R153): INVZERO on zero. -/
def execFinv (rd rs1 : CellIdx) (s : State) : Out :=
  elemOp1? true (fp s.cfg) (invOrFault (fp s.cfg)) rd rs1 s

/-- FPOW (R154): square-and-multiply with the whole integer register. -/
def execFpow (rd rs1 : CellIdx) (k : KIdx) (s : State) : Out :=
  elemOpK true (fp s.cfg) (fp s.cfg).pow rd rs1 k s

/-! The square root (R155). -/

/-- The least `m ≥ 1` with `b^(2^m) = 1`, given `b2 = b^(2^m0)`, from `m0` on and over `fuel` values. -/
def orderExp (p : Nat) : Nat → Nat → Nat → Nat
  | 0, m0, _ => m0
  | fuel + 1, m0, b2 => if b2 = 1 then m0 else orderExp p fuel (m0 + 1) (b2 * b2 % p)

/-- `x^(2^n) mod p`. -/
def squareTimes (p : Nat) : Nat → Nat → Nat
  | 0, x => x
  | n + 1, x => squareTimes p n (x * x % p)

/-- The Tonelli-Shanks loop of R155; it runs fewer than `TS_S` times, which bounds `fuel`. -/
def tonelli (p : Nat) : Nat → Nat → Nat → Nat → Nat → Nat
  | 0, _, x, _, _ => x
  | fuel + 1, z, x, b, v =>
    if b = 1 then x
    else
      let m := orderExp p v 1 (b * b % p)
      let ww := squareTimes p (v - m - 1) z
      let z' := ww * ww % p
      tonelli p fuel z' (x * ww % p) (b * z' % p) m

/-- A square root of a nonzero square `a`, from the constants of R11 (R155). -/
def someRoot (c : Config) (a : Nat) : Nat :=
  let w := powMod c.p a ((tsT c - 1) / 2)
  let x := a * w % c.p
  tonelli c.p (tsS c) (nqrToT c) x (x * w % c.p) (tsS c)

/-- The root that is not negative: `r` or `p - r`, whichever is at most `EULER` (R155). -/
def normRoot (c : Config) (r : Nat) : Nat := if euler c < r then c.p - r else r

/-- The value rule of FSQRT: 0 for 0, NOSQRT for a non-square, else the root at most `EULER` (R155). -/
def sqrtOrFault (c : Config) (a : Nat) : Except FaultCode Nat :=
  if a = 0 then .ok 0
  else if powMod c.p a (euler c) = 1 then .ok (normRoot c (someRoot c a))
  else .error .nosqrt

/-- FSQRT (R155). -/
def execFsqrt (rd rs1 : CellIdx) (s : State) : Out :=
  elemOp1? true (fp s.cfg) (sqrtOrFault s.cfg) rd rs1 s

/-! Test commands. -/

/-- FISZ (R156): raw 0. -/
def execFisz (rs1 : CellIdx) (s : State) : Out :=
  testOp1 true (rs1.toNat, 1) (fun s => rawCell s rs1.toNat == 0) s

/-- FEQ (R157): equality of raw contents. -/
def execFeq (rs1 rs2 : CellIdx) (s : State) : Out :=
  testOp2 true (rs1.toNat, 1) (rs2.toNat, 1)
    (fun s => rawCell s rs1.toNat == rawCell s rs2.toNat) s

/-- FLT (R158): order of canonical values. -/
def execFlt (rs1 rs2 : CellIdx) (s : State) : Out :=
  testOp2 true (rs1.toNat, 1) (rs2.toNat, 1)
    (fun s => decide (canon s rs1.toNat < canon s rs2.toNat)) s

/-- FISSQ (R159): Euler's criterion read literally, so 0 gives 0. -/
def execFissq (rs1 : CellIdx) (s : State) : Out :=
  testOp1 true (rs1.toNat, 1)
    (fun s => powMod s.cfg.p (canon s rs1.toNat) (euler s.cfg) == 1) s

/-- FSIGN (R160): `T <- (val > EULER)`. -/
def execFsign (rs1 : CellIdx) (s : State) : Out :=
  testOp1 true (rs1.toNat, 1) (fun s => decide (euler s.cfg < canon s rs1.toNat)) s

/-- FBIT (R161): a bit of the canonical value. -/
def execFbit (rs1 : CellIdx) (imm10 : BitVec 10) (s : State) : Out :=
  testOp1 true (rs1.toNat, 1) (fun s => (canon s rs1.toNat).testBit imm10.toNat) s

/-- FFROB (R162): the identity, on raw content; every power is legal. -/
def execFfrob (rd rs1 : CellIdx) (_pow : BitVec 7) (s : State) : Out :=
  rawOp1 (fun _ x => x) rd rs1 s

end Sys2Proof.Machine
end

