-- ==== Sys2Proof/Machine/DataMove.lean ====
section
/-! DEFINITION. The data movement commands (rules R120 to R131). -/

namespace Sys2Proof.Machine

/-- NOP (R121): no write; completes with `DONE <- 1` like any command. -/
def execNop (s : State) : Out := command {} .ok s

/-- The load half of LDFE and LDRAW: the bytes as an integer, RANGE when it is not below `p` (R67). -/
def loadBelowP (s : State) (addr : XAddr) : Except FaultCode Nat :=
  match xmemLoad s addr.toNat (feBytes s.cfg) with
  | .error c => .error c
  | .ok v => if s.cfg.p ≤ v then .error .range else .ok v

/-- LDFE (R122): the bytes are the canonical value. -/
def execLdfe (f : CellIdx) (addr : XAddr) (s : State) : Out :=
  command { dst := [(f.toNat, 1)] }
    (fun s => (loadBelowP s addr).map fun v => setCell s f.toNat (rep s.cfg v)) s

/-- STFE (R123): the canonical value. -/
def execStfe (f : CellIdx) (addr : XAddr) (s : State) : Out :=
  command { src := [(f.toNat, 1)] }
    (fun s => xmemStore s addr.toNat (feBytes s.cfg) (canon s f.toNat)) s

/-- LDRAW (R124): the bytes are the raw content. -/
def execLdraw (f : CellIdx) (addr : XAddr) (s : State) : Out :=
  command { dst := [(f.toNat, 1)] }
    (fun s => (loadBelowP s addr).map fun v => setCell s f.toNat v) s

/-- STRAW (R125): the raw content. -/
def execStraw (f : CellIdx) (addr : XAddr) (s : State) : Out :=
  command { src := [(f.toNat, 1)] }
    (fun s => xmemStore s addr.toNat (feBytes s.cfg) (rawCell s f.toNat)) s

/-- LDK (R126): 96 bytes, no range check. -/
def execLdk (k : KIdx) (addr : XAddr) (s : State) : Out :=
  command {} (fun s => (xmemLoad s addr.toNat Config.kbytes).map fun v => setK s k v) s

/-- STK (R127). -/
def execStk (k : KIdx) (addr : XAddr) (s : State) : Out :=
  command { regs := [k] } (fun s => xmemStore s addr.toNat Config.kbytes (kReg s k)) s

/-- LDKI (R128): the 17-bit immediate, zero-extended. -/
def execLdki (k : KIdx) (imm17 : BitVec 17) (s : State) : Out :=
  command {} (fun s => .ok (setK s k imm17.toNat)) s

/-- The raw contents of `n` cells from `b`. -/
def rawCells (s : State) (b : Nat) : Nat → List Nat
  | 0 => []
  | n + 1 => rawCell s b :: rawCells s (b + 1) n

/-- MOV (R129): copies raw content; all reads precede all writes. -/
def execMov (rd rs1 : CellIdx) (cnt : BitVec 7) (s : State) : Out :=
  command { dst := [(rd.toNat, cnt.toNat)], src := [(rs1.toNat, cnt.toNat)] }
    (fun s => .ok (setCells s rd.toNat (rawCells s rs1.toNat cnt.toNat))) s

/-- ZERO (R130): raw 0 is `rep(0)` in both modes. -/
def execZero (rd : CellIdx) (cnt : BitVec 7) (s : State) : Out :=
  command { dst := [(rd.toNat, cnt.toNat)] }
    (fun s => .ok (setCells s rd.toNat (List.replicate cnt.toNat 0))) s

/-- ONE (R131): `rep(1)`. -/
def execOne (rd : CellIdx) (s : State) : Out :=
  command { dst := [(rd.toNat, 1)] } (fun s => .ok (setCell s rd.toNat (rep s.cfg 1))) s

end Sys2Proof.Machine
end

