-- ==== Sys2Proof/Machine/Group.lean ====
section
/-! DEFINITION. The group law over a field `F` with curve coefficients `a`, `b` (rules R260 to R268), the
scalar multipliers (rules R300, R301) and the window lookup (rule R302): value-level functions, total on
every triple (rule R291). -/

namespace Sys2Proof.Machine

variable {α : Type} [DecidableEq α]

/-- `IsId(P) = (Z = 0)` (R261). -/
def isId (K : Fld α) (P : Pt α) : Bool := P.z = K.zero

/-- The canonical identity `(0, 1, 0)` (R261). -/
def ptZero (K : Fld α) : Pt α := ⟨K.zero, K.one, K.zero⟩

/-- `Dbl(P)` (R262). -/
def ptDbl (K : Fld α) (a : α) (P : Pt α) : Pt α :=
  if isId K P then P
  else
    let xx := K.sqr P.x
    let yy := K.sqr P.y
    let yyyy := K.sqr yy
    let zz := K.sqr P.z
    let s := K.dbl (K.sub (K.sub (K.sqr (K.add P.x yy)) xx) yyyy)
    let m := if a = K.zero then K.tpl xx else K.add (K.tpl xx) (K.mul (K.mul a zz) zz)
    let x3 := K.sub (K.sqr m) (K.dbl s)
    ⟨x3, K.sub (K.mul m (K.sub s x3)) (K.octuple yyyy), K.mul (K.dbl P.y) P.z⟩

/-- `Add(P, Q)`, both Jacobian (R263). -/
def ptAdd (K : Fld α) (a : α) (P Q : Pt α) : Pt α :=
  if isId K P then Q
  else if isId K Q then P
  else
    let z1z1 := K.sqr P.z
    let z2z2 := K.sqr Q.z
    let u1 := K.mul P.x z2z2
    let u2 := K.mul Q.x z1z1
    let s1 := K.mul (K.mul P.y Q.z) z2z2
    let s2 := K.mul (K.mul Q.y P.z) z1z1
    if u1 = u2 then
      if s1 = s2 then ptDbl K a P else ptZero K
    else
      let h := K.sub u2 u1
      let i := K.sqr (K.dbl h)
      let j := K.mul h i
      let r := K.dbl (K.sub s2 s1)
      let v := K.mul u1 i
      let x3 := K.sub (K.sub (K.sqr r) j) (K.dbl v)
      ⟨x3, K.sub (K.mul r (K.sub v x3)) (K.mul (K.dbl s1) j),
       K.mul (K.sub (K.sub (K.sqr (K.add P.z Q.z)) z1z1) z2z2) h⟩

/-- `Madd(P, (x2, y2))`, the second operand affine and finite (R264). -/
def ptMadd (K : Fld α) (a : α) (P : Pt α) (Q : Aff α) : Pt α :=
  if isId K P then ⟨Q.x, Q.y, K.one⟩
  else
    let z1z1 := K.sqr P.z
    let u2 := K.mul Q.x z1z1
    let s2 := K.mul (K.mul Q.y P.z) z1z1
    if P.x = u2 then
      if P.y = s2 then ptDbl K a P else ptZero K
    else
      let h := K.sub u2 P.x
      let hh := K.sqr h
      let i := K.quadruple hh
      let j := K.mul h i
      let r := K.dbl (K.sub s2 P.y)
      let v := K.mul P.x i
      let x3 := K.sub (K.sub (K.sqr r) j) (K.dbl v)
      ⟨x3, K.sub (K.mul r (K.sub v x3)) (K.mul (K.dbl P.y) j),
       K.sub (K.sub (K.sqr (K.add P.z h)) z1z1) hh⟩

/-- `Neg(P) = (X, -Y, Z)` (R265). -/
def ptNeg (K : Fld α) (P : Pt α) : Pt α := ⟨P.x, K.neg P.y, P.z⟩

/-- `ToAffine(P)` for `Z ≠ 0` (R266). -/
def ptToAffine (K : Fld α) (P : Pt α) : Aff α :=
  let zi := K.inv P.z
  let zi2 := K.sqr zi
  ⟨K.mul P.x zi2, K.mul (K.mul P.y zi2) zi⟩

/-- `PtEq(P, Q)`: equality of represented points (R267). -/
def ptEq (K : Fld α) (P Q : Pt α) : Bool :=
  if isId K P || isId K Q then isId K P && isId K Q
  else
    let z1z1 := K.sqr P.z
    let z2z2 := K.sqr Q.z
    K.mul P.x z2z2 == K.mul Q.x z1z1 &&
      K.mul (K.mul P.y Q.z) z2z2 == K.mul (K.mul Q.y P.z) z1z1

/-- `IsWF(P)`: the curve equation in Jacobian form (R268). -/
def ptIsWF (K : Fld α) (a b : α) (P : Pt α) : Bool :=
  if isId K P then true
  else
    let zz := K.sqr P.z
    let z4 := K.sqr zz
    let z6 := K.mul z4 zz
    K.sqr P.y == K.add (K.add (K.mul (K.sqr P.x) P.x) (K.mul (K.mul a P.x) z4)) (K.mul b z6)

/-! Scalar multiplication. -/

/-- The loop of `Smul` from bit `i - 1` down to bit 0 (R300). -/
def smulLoop (K : Fld α) (a : α) (P : Pt α) (k : Nat) : Nat → Pt α → Pt α
  | 0, acc => acc
  | i + 1, acc =>
    let d := ptDbl K a acc
    smulLoop K a P k i (if k.testBit i then ptAdd K a d P else d)

/-- `Smul(P, k)`: binary double-and-add from the most significant set bit (R300). -/
def smul (K : Fld α) (a : α) (P : Pt α) (k : Nat) : Pt α :=
  if k = 0 then ptZero K else smulLoop K a P k (bitlen k - 1) P

/-- The `n` table entries after `prev`, each `P` added to the one before (R301). -/
def windowEntries (K : Fld α) (a : α) (P : Pt α) : Nat → Pt α → List (Pt α)
  | 0, _ => []
  | n + 1, prev =>
    let next := ptAdd K a prev P
    next :: windowEntries K a P n next

/-- The table `T[0 .. 2^w - 1]` of `Smulw` (R301). -/
def windowTable (K : Fld α) (a : α) (P : Pt α) (w : Nat) : List (Pt α) :=
  ptZero K :: P :: windowEntries K a P (2 ^ w - 2) P

/-- `Dbl` repeated `n` times (R301). -/
def dblTimes (K : Fld α) (a : α) : Nat → Pt α → Pt α
  | 0, acc => acc
  | n + 1, acc => dblTimes K a n (ptDbl K a acc)

/-- The loop of `Smulw` from digit `i - 1` down to digit 0 (R301). -/
def smulwLoop (K : Fld α) (a : α) (tab : List (Pt α)) (k w : Nat) : Nat → Pt α → Pt α
  | 0, acc => acc
  | i + 1, acc =>
    let acc := dblTimes K a w acc
    let d := (k >>> (i * w)) % 2 ^ w
    smulwLoop K a tab k w i (if d ≠ 0 then ptAdd K a acc (tab.getD d (ptZero K)) else acc)

/-- `Smulw(P, k, w)`: fixed window `w` in `1..8`, from the most significant digit (R301). -/
def smulw (K : Fld α) (a : α) (P : Pt α) (k w : Nat) : Pt α :=
  if k = 0 then ptZero K
  else smulwLoop K a (windowTable K a P w) k w ((bitlen k + w - 1) / w) (ptZero K)

/-- The least `w` from `w` on whose entry exceeds `n`, over the entries that are left; 22 if there is
none (R302). -/
def winSelFrom (n : Nat) : Nat → List (BitVec 32) → Nat
  | _, [] => 22
  | w, e :: es => if n < e.toNat then w else winSelFrom n (w + 1) es

/-- `WinSel(tab, n)` (R302). -/
def winSel (tab : Vector (BitVec 32) 22) (n : Nat) : Nat := winSelFrom n 1 tab.toList

end Sys2Proof.Machine
end

