-- ==== Sys2Proof/Machine/Pairing.lean ====
section
/-! DEFINITION. The pairing engine's value-level functions: the two steps and the precomputation (rules
R320 to R322), the line function and the Miller loop (rules R323, R324), the cyclotomic operations (rules
R350, R351) and the final exponentiation (rules R352 to R355, R361). -/

namespace Sys2Proof.Machine

/-! The G2 precomputation. -/

/-- `DoublingStep(R)`: the new running point and one record (R320). -/
def doublingStep (c : Config) (r : Pt F2) : Pt F2 × LineRec :=
  let K := fp2 c
  let a := scale2 c (twoInv c) (K.mul r.x r.y)
  let b := K.sqr r.y
  let cc := K.sqr r.z
  let d := K.tpl cc
  let e := K.mul (twistB c) d
  let fv := K.tpl e
  let g := scale2 c (twoInv c) (K.add b fv)
  let h := K.sub (K.sqr (K.add r.y r.z)) (K.add b cc)
  let i := K.sub e b
  let j := K.sqr r.x
  let e2 := K.sqr e
  (⟨K.mul a (K.sub b fv), K.sub (K.sqr g) (K.tpl e2), K.mul b h⟩,
   ⟨K.mul c.twist i, K.tpl j, K.neg h⟩)

/-- `AdditionStep(R, (x2, y2))` (R321); there is no special case. -/
def additionStep (c : Config) (r : Pt F2) (q : Aff F2) : Pt F2 × LineRec :=
  let K := fp2 c
  let d := K.sub r.x (K.mul q.x r.z)
  let e := K.sub r.y (K.mul q.y r.z)
  let fv := K.sqr d
  let g := K.sqr e
  let h := K.mul d fv
  let i := K.mul r.x fv
  let j := K.sub (K.add h (K.mul r.z g)) (K.dbl i)
  (⟨K.mul d j, K.sub (K.mul e (K.sub i j)) (K.mul h r.y), K.mul r.z h⟩,
   ⟨K.mul c.twist (K.sub (K.mul e q.x) (K.mul d q.y)), K.neg e, d⟩)

/-- The main loop of `Precompute` over bits `i - 1` down to 0 of the loop count: the running point at the
end and the records in order (R322). -/
def precomputeLoop (c : Config) (q : Aff F2) : Nat → Pt F2 → Pt F2 × List LineRec
  | 0, r => (r, [])
  | i + 1, r =>
    let d := doublingStep c r
    if c.loopcount.testBit i then
      let a := additionStep c d.1 q
      let rest := precomputeLoop c q i a.1
      (rest.1, d.2 :: a.2 :: rest.2)
    else
      let rest := precomputeLoop c q i d.1
      (rest.1, d.2 :: rest.2)

/-- The extra step of a negative loop count: an addition step against the negation of the running point
(R322); INVZERO when its `Z` is zero. -/
def negativeCountStep (c : Config) (r : Pt F2) : Except FaultCode LineRec :=
  let K := fp2 c
  (invOrFault K r.z).map fun zi =>
    (additionStep c r ⟨K.mul r.x zi, K.neg (K.mul r.y zi)⟩).2

/-- `Precompute(Q)` for `Q` not the identity (R322). -/
def precompute (c : Config) (Q : Pt F2) : Except FaultCode Bank :=
  let q := ptToAffine (fp2 c) Q
  let main := precomputeLoop c q (bitlen c.loopcount - 1) ⟨q.x, q.y, (fp2 c).one⟩
  if c.loopneg then
    (negativeCountStep c main.1).map fun l => ⟨q.x, q.y, main.2 ++ [l]⟩
  else .ok ⟨q.x, q.y, main.2⟩

/-! The Miller loop. -/

/-- `GLine(c, P)`: a line function at an affine G1 point, a sparse element of Fp12 (R323). -/
def gLine (c : Config) (l : LineRec) (P : Aff Fp) : F12 :=
  let z := (fp2 c).zero
  ⟨⟨l.ell0, z, scale2 c P.x l.ellVV⟩, ⟨z, scale2 c P.y l.ellVW, z⟩⟩

/-- `REC[idx]`; a valid bank has a record at every index the loop asks for (R29, R51). -/
def recAt (recs : List LineRec) (idx : Nat) : LineRec :=
  recs.getD idx ⟨⟨0, 0⟩, ⟨0, 0⟩, ⟨0, 0⟩⟩

/-- `f` times the line of every pair at `idx`, in order (R324). -/
def mulLines (c : Config) (pairs : List (Aff Fp × List LineRec)) (idx : Nat) (f : F12) : F12 :=
  pairs.foldl (fun f pr => (fp12 c).mul f (gLine c (recAt pr.2 idx) pr.1)) f

/-- The loop of `Miller` over bits `i - 1` down to 0 of the loop count, from record `idx`: the accumulator
and the index of the next record (R324). -/
def millerLoop (c : Config) (pairs : List (Aff Fp × List LineRec)) : Nat → Nat → F12 → F12 × Nat
  | 0, idx, f => (f, idx)
  | i + 1, idx, f =>
    let f := mulLines c pairs idx ((fp12 c).sqr f)
    if c.loopcount.testBit i then millerLoop c pairs i (idx + 2) (mulLines c pairs (idx + 1) f)
    else millerLoop c pairs i (idx + 1) f

/-- `Miller(pairs)` (R324); `f` is neither inverted nor conjugated for a negative loop count. -/
def miller (c : Config) (pairs : List (Aff Fp × List LineRec)) : F12 :=
  let r := millerLoop c pairs (bitlen c.loopcount - 1) 0 (fp12 c).one
  if c.loopneg then mulLines c pairs r.2 r.1 else r.1

/-! Cyclotomic operations and the final exponentiation. -/

/-- `CYC(a)`: `a ≠ 0` and `a^(p^4 - p^2 + 1) = 1` (R350). -/
def cyc (c : Config) (a : F12) : Bool :=
  a != (fp12 c).zero && (fp12 c).pow a (c.p ^ 4 - c.p ^ 2 + 1) == (fp12 c).one

/-- Every coordinate reduced to its canonical value in `[0, p)`. -/
def canon12 (c : Config) (a : F12) : F12 :=
  let r2 (x : F2) : F2 := ⟨x.c0 % c.p, x.c1 % c.p⟩
  let r6 (x : F6Over2) : F6Over2 := ⟨r2 x.c0, r2 x.c1, r2 x.c2⟩
  ⟨r6 a.c0, r6 a.c1⟩

/-- `CycSqr(a)`: the square on the cyclotomic subgroup; off it the free function `CSQR_OFF`, which gives
twelve canonical values (R351, U2). -/
def cycSqr (c : Config) (a : F12) : F12 :=
  if cyc c a then (fp12 c).sqr a else canon12 c (Config.csqrOff c a)

/-- The loop of `CycExp` from bit `i - 1` down to bit 0 (R351). -/
def cycExpLoop (c : Config) (a : F12) (e : Nat) : Nat → F12 → F12
  | 0, r => r
  | i + 1, r =>
    let q := cycSqr c r
    cycExpLoop c a e i (if e.testBit i then (fp12 c).mul q a else q)

/-- `CycExp(a, e)` (R351). -/
def cycExp (c : Config) (a : F12) (e : Nat) : F12 :=
  if e = 0 then (fp12 c).one else cycExpLoop c a e (bitlen e - 1) a

/-- `Easy(a)` for `a ≠ 0` (R352). -/
def easyPart (c : Config) (a : F12) : F12 :=
  let K := fp12 c
  let q := K.mul (conj12 c a) (K.inv a)
  K.mul (K.frob 2 q) q

/-- `ExpZ(a)` (R353). -/
def expZ (c : Config) (a : F12) : F12 :=
  let y := cycExp c a c.zabs
  if c.zneg then conj12 c y else y

/-- The slots `t[0..31]` of the hard part: what was last written to each (R354). -/
abbrev Slots := List (Slot × F12)

/-- `t[s]`. In a well-formed chain every slot that is read has been written (R356). -/
def slotGet (t : Slots) (s : Slot) : F12 := (t.lookup s).getD default

/-- One chain step (R354). -/
def chainStep (c : Config) (t : Slots) : ChainStep → Slots
  | .csq d s => (d, cycSqr c (slotGet t s)) :: t
  | .mul d s1 s2 => (d, (fp12 c).mul (slotGet t s1) (slotGet t s2)) :: t
  | .frb d s k => (d, (fp12 c).frob k.val (slotGet t s)) :: t
  | .uin d s => (d, conj12 c (slotGet t s)) :: t
  | .exz d s => (d, expZ c (slotGet t s)) :: t

/-- `Hard(a)` (R355). -/
def hardPart (c : Config) (a : F12) : F12 :=
  slotGet (c.chain.foldl (chainStep c) [(0, a)]) c.chainout

/-- `FinalExp(a) = Hard(Easy(a))`, for `a ≠ 0` (R361). -/
def finalExp (c : Config) (a : F12) : F12 := hardPart c (easyPart c a)

/-- The value condition of the final exponentiation: INVZERO on zero (R357, R359). -/
def orInvZero (c : Config) (g : F12 → F12) (a : F12) : Except FaultCode F12 :=
  if a = (fp12 c).zero then .error .invzero else .ok (g a)

end Sys2Proof.Machine
end

