-- ==== Sys2Proof/Machine/Fp12.lean ====
section
/-! DEFINITION. The commands of Fp12 (rules R244 to R255); absent without `HAS_FP12` (R96). -/

namespace Sys2Proof.Machine

/-- F12ADD (R244). -/
def execF12add (rd rs1 rs2 : CellIdx) (s : State) : Out :=
  elemOp2 s.cfg.hasFp12 (fp12 s.cfg) (fp12 s.cfg).add rd rs1 rs2 s

/-- F12SUB (R245). -/
def execF12sub (rd rs1 rs2 : CellIdx) (s : State) : Out :=
  elemOp2 s.cfg.hasFp12 (fp12 s.cfg) (fp12 s.cfg).sub rd rs1 rs2 s

/-- F12MUL (R246). -/
def execF12mul (rd rs1 rs2 : CellIdx) (s : State) : Out :=
  elemOp2 s.cfg.hasFp12 (fp12 s.cfg) (fp12 s.cfg).mul rd rs1 rs2 s

/-- F12SQR (R247). -/
def execF12sqr (rd rs1 : CellIdx) (s : State) : Out :=
  elemOp1 s.cfg.hasFp12 (fp12 s.cfg) (fp12 s.cfg).sqr rd rs1 s

/-- F12NEG (R248). -/
def execF12neg (rd rs1 : CellIdx) (s : State) : Out :=
  elemOp1 s.cfg.hasFp12 (fp12 s.cfg) (fp12 s.cfg).neg rd rs1 s

/-- F12INV (R249): INVZERO on the zero element. -/
def execF12inv (rd rs1 : CellIdx) (s : State) : Out :=
  elemOp1? s.cfg.hasFp12 (fp12 s.cfg) (invOrFault (fp12 s.cfg)) rd rs1 s

/-- F12FROB (R250): every power is legal. -/
def execF12frob (rd rs1 : CellIdx) (pow : BitVec 7) (s : State) : Out :=
  elemOp1 s.cfg.hasFp12 (fp12 s.cfg) ((fp12 s.cfg).frob pow.toNat) rd rs1 s

/-- F12ISZ (R251). -/
def execF12isz (rs1 : CellIdx) (s : State) : Out :=
  testOp1 s.cfg.hasFp12 (elemSpan (fp12 s.cfg) rs1) (elemIsZero (fp12 s.cfg) rs1) s

/-- F12EQ (R252). -/
def execF12eq (rs1 rs2 : CellIdx) (s : State) : Out :=
  testOp2 s.cfg.hasFp12 (elemSpan (fp12 s.cfg) rs1) (elemSpan (fp12 s.cfg) rs2) (elemEq (fp12 s.cfg) rs1 rs2) s

/-! Cyclotomic operations (R253 to R255). -/

/-- F12UINV (R253): conjugates whatever it is given. -/
def execF12uinv (rd rs1 : CellIdx) (s : State) : Out :=
  elemOp1 s.cfg.hasFp12 (fp12 s.cfg) (conj12 s.cfg) rd rs1 s

/-- F12CSQR (R254). -/
def execF12csqr (rd rs1 : CellIdx) (s : State) : Out :=
  elemOp1 s.cfg.hasFp12 (fp12 s.cfg) (cycSqr s.cfg) rd rs1 s

/-- F12CEXP (R255). -/
def execF12cexp (rd rs1 : CellIdx) (k : KIdx) (s : State) : Out :=
  elemOpK s.cfg.hasFp12 (fp12 s.cfg) (cycExp s.cfg) rd rs1 k s

end Sys2Proof.Machine
end

