-- ==== Sys2Proof/Machine/Fp2.lean ====
section
/-! DEFINITION. The commands of Fp2 (rules R184 to R192); absent without `HAS_FP2` (R96). -/

namespace Sys2Proof.Machine

/-- F2ADD (R184). -/
def execF2add (rd rs1 rs2 : CellIdx) (s : State) : Out :=
  elemOp2 s.cfg.hasFp2 (fp2 s.cfg) (fp2 s.cfg).add rd rs1 rs2 s

/-- F2SUB (R185). -/
def execF2sub (rd rs1 rs2 : CellIdx) (s : State) : Out :=
  elemOp2 s.cfg.hasFp2 (fp2 s.cfg) (fp2 s.cfg).sub rd rs1 rs2 s

/-- F2MUL (R186). -/
def execF2mul (rd rs1 rs2 : CellIdx) (s : State) : Out :=
  elemOp2 s.cfg.hasFp2 (fp2 s.cfg) (fp2 s.cfg).mul rd rs1 rs2 s

/-- F2SQR (R187). -/
def execF2sqr (rd rs1 : CellIdx) (s : State) : Out :=
  elemOp1 s.cfg.hasFp2 (fp2 s.cfg) (fp2 s.cfg).sqr rd rs1 s

/-- F2NEG (R188). -/
def execF2neg (rd rs1 : CellIdx) (s : State) : Out :=
  elemOp1 s.cfg.hasFp2 (fp2 s.cfg) (fp2 s.cfg).neg rd rs1 s

/-- F2INV (R189): INVZERO on the zero element. -/
def execF2inv (rd rs1 : CellIdx) (s : State) : Out :=
  elemOp1? s.cfg.hasFp2 (fp2 s.cfg) (invOrFault (fp2 s.cfg)) rd rs1 s

/-- F2FROB (R190): every power is legal. -/
def execF2frob (rd rs1 : CellIdx) (pow : BitVec 7) (s : State) : Out :=
  elemOp1 s.cfg.hasFp2 (fp2 s.cfg) ((fp2 s.cfg).frob pow.toNat) rd rs1 s

/-- F2ISZ (R191). -/
def execF2isz (rs1 : CellIdx) (s : State) : Out :=
  testOp1 s.cfg.hasFp2 (elemSpan (fp2 s.cfg) rs1) (elemIsZero (fp2 s.cfg) rs1) s

/-- F2EQ (R192). -/
def execF2eq (rs1 rs2 : CellIdx) (s : State) : Out :=
  testOp2 s.cfg.hasFp2 (elemSpan (fp2 s.cfg) rs1) (elemSpan (fp2 s.cfg) rs2) (elemEq (fp2 s.cfg) rs1 rs2) s

end Sys2Proof.Machine
end

