-- ==== Sys2Proof/Machine/Fp3.lean ====
section
/-! DEFINITION. The commands of Fp3 (rules R204 to R212); absent without `HAS_FP3` (R96). -/

namespace Sys2Proof.Machine

/-- F3ADD (R204). -/
def execF3add (rd rs1 rs2 : CellIdx) (s : State) : Out :=
  elemOp2 s.cfg.hasFp3 (fp3 s.cfg) (fp3 s.cfg).add rd rs1 rs2 s

/-- F3SUB (R205). -/
def execF3sub (rd rs1 rs2 : CellIdx) (s : State) : Out :=
  elemOp2 s.cfg.hasFp3 (fp3 s.cfg) (fp3 s.cfg).sub rd rs1 rs2 s

/-- F3MUL (R206). -/
def execF3mul (rd rs1 rs2 : CellIdx) (s : State) : Out :=
  elemOp2 s.cfg.hasFp3 (fp3 s.cfg) (fp3 s.cfg).mul rd rs1 rs2 s

/-- F3SQR (R207). -/
def execF3sqr (rd rs1 : CellIdx) (s : State) : Out :=
  elemOp1 s.cfg.hasFp3 (fp3 s.cfg) (fp3 s.cfg).sqr rd rs1 s

/-- F3NEG (R208). -/
def execF3neg (rd rs1 : CellIdx) (s : State) : Out :=
  elemOp1 s.cfg.hasFp3 (fp3 s.cfg) (fp3 s.cfg).neg rd rs1 s

/-- F3INV (R209): INVZERO on the zero element. -/
def execF3inv (rd rs1 : CellIdx) (s : State) : Out :=
  elemOp1? s.cfg.hasFp3 (fp3 s.cfg) (invOrFault (fp3 s.cfg)) rd rs1 s

/-- F3FROB (R210): every power is legal. -/
def execF3frob (rd rs1 : CellIdx) (pow : BitVec 7) (s : State) : Out :=
  elemOp1 s.cfg.hasFp3 (fp3 s.cfg) ((fp3 s.cfg).frob pow.toNat) rd rs1 s

/-- F3ISZ (R211). -/
def execF3isz (rs1 : CellIdx) (s : State) : Out :=
  testOp1 s.cfg.hasFp3 (elemSpan (fp3 s.cfg) rs1) (elemIsZero (fp3 s.cfg) rs1) s

/-- F3EQ (R212). -/
def execF3eq (rs1 rs2 : CellIdx) (s : State) : Out :=
  testOp2 s.cfg.hasFp3 (elemSpan (fp3 s.cfg) rs1) (elemSpan (fp3 s.cfg) rs2) (elemEq (fp3 s.cfg) rs1 rs2) s

end Sys2Proof.Machine
end

