-- ==== Sys2Proof/Machine/Fp6.lean ====
section
/-! DEFINITION. The commands of Fp6 (rules R225 to R233), in the kind that `F6KIND` names; absent when it
is `NONE` (R96). -/

namespace Sys2Proof.Machine

/-- Runs an Fp6 command with the field of the instance's kind (R220, R221); UNSUPP when there is none
(R96). -/
def onFp6 (s : State) (run : {α : Type} → [DecidableEq α] → Fld α → Out) : Out :=
  match s.cfg.f6 with
  | .none => .next (takeFault .unsupp s)
  | .over2 nr6 => run (fp6Over2 s.cfg nr6)
  | .over3 nr6 => run (fp6Over3 s.cfg nr6)

/-- F6ADD (R225). -/
def execF6add (rd rs1 rs2 : CellIdx) (s : State) : Out :=
  onFp6 s fun K => elemOp2 true K K.add rd rs1 rs2 s

/-- F6SUB (R226). -/
def execF6sub (rd rs1 rs2 : CellIdx) (s : State) : Out :=
  onFp6 s fun K => elemOp2 true K K.sub rd rs1 rs2 s

/-- F6MUL (R227). -/
def execF6mul (rd rs1 rs2 : CellIdx) (s : State) : Out :=
  onFp6 s fun K => elemOp2 true K K.mul rd rs1 rs2 s

/-- F6SQR (R228). -/
def execF6sqr (rd rs1 : CellIdx) (s : State) : Out :=
  onFp6 s fun K => elemOp1 true K K.sqr rd rs1 s

/-- F6NEG (R229). -/
def execF6neg (rd rs1 : CellIdx) (s : State) : Out :=
  onFp6 s fun K => elemOp1 true K K.neg rd rs1 s

/-- F6INV (R230): INVZERO on the zero element. -/
def execF6inv (rd rs1 : CellIdx) (s : State) : Out :=
  onFp6 s fun K => elemOp1? true K (invOrFault K) rd rs1 s

/-- F6FROB (R231): every power is legal. -/
def execF6frob (rd rs1 : CellIdx) (pow : BitVec 7) (s : State) : Out :=
  onFp6 s fun K => elemOp1 true K (K.frob pow.toNat) rd rs1 s

/-- F6ISZ (R232). -/
def execF6isz (rs1 : CellIdx) (s : State) : Out :=
  onFp6 s fun K => testOp1 true (elemSpan K rs1) (elemIsZero K rs1) s

/-- F6EQ (R233). -/
def execF6eq (rs1 rs2 : CellIdx) (s : State) : Out :=
  onFp6 s fun K => testOp2 true (elemSpan K rs1) (elemSpan K rs2) (elemEq K rs1 rs2) s

end Sys2Proof.Machine
end

