-- ==== Sys2Proof/Machine/Points.lean ====
section
/-! DEFINITION. The shapes of the group commands, written once for G1 and G2: a curve is a field with its
coefficients and generator (rule R269). -/

namespace Sys2Proof.Machine

/-- A curve group as the commands use it (R269). -/
structure Curve (α : Type) where
  /-- The requirement of R96. -/
  feature : Bool
  K : Fld α
  a : α
  b : α
  gen : Aff α

/-- G1: `F = Fp`, `a = CURVE_A`, `b = CURVE_B` (R269); always present (R96). -/
def g1 (c : Config) : Curve Fp := ⟨true, fp c, c.curveA, c.curveB, c.gen1⟩

/-- G2: `F = Fp2`, `a = 0`, `b = TWIST_B` (R269); present when `HAS_G2` (R96). -/
def g2 (c : Config) : Curve F2 := ⟨c.hasG2, fp2 c, (fp2 c).zero, twistB c, c.gen2⟩

variable {α : Type} [DecidableEq α]

/-- A command that writes a point computed from one point (format R2). -/
def ptOp1 (E : Curve α) (op : Pt α → Pt α) (rd rs1 : CellIdx) (s : State) : Out :=
  command { feature := E.feature, dst := [ptSpan E.K rd], src := [ptSpan E.K rs1] }
    (fun s => .ok (writePt E.K s rd.toNat (op (readPt E.K s rs1.toNat)))) s

/-- A command that writes a point computed from two points (format R3). -/
def ptOp2 (E : Curve α) (op : Pt α → Pt α → Pt α) (rd rs1 rs2 : CellIdx) (s : State) : Out :=
  command
    { feature := E.feature, dst := [ptSpan E.K rd], src := [ptSpan E.K rs1, ptSpan E.K rs2] }
    (fun s => .ok (writePt E.K s rd.toNat (op (readPt E.K s rs1.toNat) (readPt E.K s rs2.toNat)))) s

/-- A mixed addition: the second operand is affine (R272, R282). -/
def ptOpMixed (E : Curve α) (op : Pt α → Aff α → Pt α) (rd rs1 rs2 : CellIdx) (s : State) : Out :=
  command
    { feature := E.feature, dst := [ptSpan E.K rd], src := [ptSpan E.K rs1, affSpan E.K rs2] }
    (fun s => .ok (writePt E.K s rd.toNat (op (readPt E.K s rs1.toNat) (readAff E.K s rs2.toNat)))) s

/-- A conversion to affine: IDENTITY on the identity (R274, R284). -/
def ptOpAffine (E : Curve α) (rd rs1 : CellIdx) (s : State) : Out :=
  command { feature := E.feature, dst := [affSpan E.K rd], src := [ptSpan E.K rs1] }
    (fun s =>
      let P := readPt E.K s rs1.toNat
      if isId E.K P then .error .identity
      else .ok (writeAff E.K s rd.toNat (ptToAffine E.K P))) s

/-- A command that writes a constant point (format D). -/
def ptConst (E : Curve α) (P : Pt α) (rd : CellIdx) (s : State) : Out :=
  command { feature := E.feature, dst := [ptSpan E.K rd] }
    (fun s => .ok (writePt E.K s rd.toNat P)) s

/-- A scalar multiplication by an integer register (formats RK and RKW). -/
def ptOpK (E : Curve α) (op : Pt α → Nat → Pt α) (rd rs1 : CellIdx) (k : KIdx) (s : State) : Out :=
  command
    { feature := E.feature, dst := [ptSpan E.K rd], src := [ptSpan E.K rs1], regs := [k] }
    (fun s => .ok (writePt E.K s rd.toNat (op (readPt E.K s rs1.toNat) (kReg s k)))) s

/-- The generator as a Jacobian point, `Z = 1` (R279, R289). -/
def genPt (E : Curve α) : Pt α := ⟨E.gen.x, E.gen.y, E.K.one⟩

/-- A window lookup in a table (R305, R308). -/
def winOp (feature : Bool) (tab : Vector (BitVec 32) 22) (kd ks : KIdx) (s : State) : Out :=
  command { feature := feature, regs := [ks] } (fun s => .ok (setK s kd (winSel tab (kReg s ks)))) s

end Sys2Proof.Machine
end

