-- ==== Sys2Proof/Machine/G1.lean ====
section
/-! DEFINITION. The commands of G1 (rules R270 to R279) and its scalar multipliers and window lookup (rules
R303 to R305). -/

namespace Sys2Proof.Machine

/-- PDBL (R270). -/
def execPdbl (rd rs1 : CellIdx) (s : State) : Out :=
  ptOp1 (g1 s.cfg) (ptDbl (g1 s.cfg).K (g1 s.cfg).a) rd rs1 s

/-- PADD (R271). -/
def execPadd (rd rs1 rs2 : CellIdx) (s : State) : Out :=
  ptOp2 (g1 s.cfg) (ptAdd (g1 s.cfg).K (g1 s.cfg).a) rd rs1 rs2 s

/-- PMADD (R272). -/
def execPmadd (rd rs1 rs2 : CellIdx) (s : State) : Out :=
  ptOpMixed (g1 s.cfg) (ptMadd (g1 s.cfg).K (g1 s.cfg).a) rd rs1 rs2 s

/-- PNEG (R273). -/
def execPneg (rd rs1 : CellIdx) (s : State) : Out :=
  ptOp1 (g1 s.cfg) (ptNeg (g1 s.cfg).K) rd rs1 s

/-- PAFF (R274). -/
def execPaff (rd rs1 : CellIdx) (s : State) : Out :=
  ptOpAffine (g1 s.cfg) rd rs1 s

/-- PISID (R275): reads the whole span, tests Z only. -/
def execPisid (rs1 : CellIdx) (s : State) : Out :=
  testOp1 true (ptSpan (fp s.cfg) rs1) (fun s => rawCell s (rs1.toNat + 2) == 0) s

/-- PEQ (R276). -/
def execPeq (rs1 rs2 : CellIdx) (s : State) : Out :=
  testOp2 (g1 s.cfg).feature (ptSpan (g1 s.cfg).K rs1) (ptSpan (g1 s.cfg).K rs2)
    (fun s => ptEq (g1 s.cfg).K (readPt (g1 s.cfg).K s rs1.toNat) (readPt (g1 s.cfg).K s rs2.toNat)) s

/-- PISWF (R277). -/
def execPiswf (rs1 : CellIdx) (s : State) : Out :=
  testOp1 (g1 s.cfg).feature (ptSpan (g1 s.cfg).K rs1)
    (fun s => ptIsWF (g1 s.cfg).K (g1 s.cfg).a (g1 s.cfg).b (readPt (g1 s.cfg).K s rs1.toNat)) s

/-- PZERO (R278). -/
def execPzero (rd : CellIdx) (s : State) : Out :=
  ptConst (g1 s.cfg) (ptZero (g1 s.cfg).K) rd s

/-- PONE (R279). -/
def execPone (rd : CellIdx) (s : State) : Out :=
  ptConst (g1 s.cfg) (genPt (g1 s.cfg)) rd s

/-- PSMUL (R303). -/
def execPsmul (rd rs1 : CellIdx) (k : KIdx) (s : State) : Out :=
  ptOpK (g1 s.cfg) (smul (g1 s.cfg).K (g1 s.cfg).a) rd rs1 k s

/-- PSMULW (R304): the window is `fn + 1`. -/
def execPsmulw (rd rs1 : CellIdx) (k : KIdx) (wm1 : BitVec 3) (s : State) : Out :=
  ptOpK (g1 s.cfg) (fun P n => smulw (g1 s.cfg).K (g1 s.cfg).a P n (wm1.toNat + 1)) rd rs1 k s

/-- WINSEL1 (R305). -/
def execWinsel1 (kd ks : KIdx) (s : State) : Out :=
  winOp true s.cfg.wtab1 kd ks s

end Sys2Proof.Machine
end

