-- ==== Sys2Proof/Machine/G2.lean ====
section
/-! DEFINITION. The commands of G2 (rules R280 to R289) and its scalar multipliers and window lookup (rules
R306 to R308). -/

namespace Sys2Proof.Machine

/-- QDBL (R280). -/
def execQdbl (rd rs1 : CellIdx) (s : State) : Out :=
  ptOp1 (g2 s.cfg) (ptDbl (g2 s.cfg).K (g2 s.cfg).a) rd rs1 s

/-- QADD (R281). -/
def execQadd (rd rs1 rs2 : CellIdx) (s : State) : Out :=
  ptOp2 (g2 s.cfg) (ptAdd (g2 s.cfg).K (g2 s.cfg).a) rd rs1 rs2 s

/-- QMADD (R282). -/
def execQmadd (rd rs1 rs2 : CellIdx) (s : State) : Out :=
  ptOpMixed (g2 s.cfg) (ptMadd (g2 s.cfg).K (g2 s.cfg).a) rd rs1 rs2 s

/-- QNEG (R283). -/
def execQneg (rd rs1 : CellIdx) (s : State) : Out :=
  ptOp1 (g2 s.cfg) (ptNeg (g2 s.cfg).K) rd rs1 s

/-- QAFF (R284). -/
def execQaff (rd rs1 : CellIdx) (s : State) : Out :=
  ptOpAffine (g2 s.cfg) rd rs1 s

/-- QISID (R285): reads the whole span, tests both coordinates of Z. -/
def execQisid (rs1 : CellIdx) (s : State) : Out :=
  testOp1 s.cfg.hasG2 (ptSpan (fp2 s.cfg) rs1)
    (fun s => rawCell s (rs1.toNat + 4) == 0 && rawCell s (rs1.toNat + 5) == 0) s

/-- QEQ (R286). -/
def execQeq (rs1 rs2 : CellIdx) (s : State) : Out :=
  testOp2 (g2 s.cfg).feature (ptSpan (g2 s.cfg).K rs1) (ptSpan (g2 s.cfg).K rs2)
    (fun s => ptEq (g2 s.cfg).K (readPt (g2 s.cfg).K s rs1.toNat) (readPt (g2 s.cfg).K s rs2.toNat)) s

/-- QISWF (R287). -/
def execQiswf (rs1 : CellIdx) (s : State) : Out :=
  testOp1 (g2 s.cfg).feature (ptSpan (g2 s.cfg).K rs1)
    (fun s => ptIsWF (g2 s.cfg).K (g2 s.cfg).a (g2 s.cfg).b (readPt (g2 s.cfg).K s rs1.toNat)) s

/-- QZERO (R288). -/
def execQzero (rd : CellIdx) (s : State) : Out :=
  ptConst (g2 s.cfg) (ptZero (g2 s.cfg).K) rd s

/-- QONE (R289). -/
def execQone (rd : CellIdx) (s : State) : Out :=
  ptConst (g2 s.cfg) (genPt (g2 s.cfg)) rd s

/-- QSMUL (R306). -/
def execQsmul (rd rs1 : CellIdx) (k : KIdx) (s : State) : Out :=
  ptOpK (g2 s.cfg) (smul (g2 s.cfg).K (g2 s.cfg).a) rd rs1 k s

/-- QSMULW (R307): the window is `fn + 1`. -/
def execQsmulw (rd rs1 : CellIdx) (k : KIdx) (wm1 : BitVec 3) (s : State) : Out :=
  ptOpK (g2 s.cfg) (fun P n => smulw (g2 s.cfg).K (g2 s.cfg).a P n (wm1.toNat + 1)) rd rs1 k s

/-- WINSEL2 (R308). -/
def execWinsel2 (kd ks : KIdx) (s : State) : Out :=
  winOp s.cfg.hasG2 s.cfg.wtab2 kd ks s

end Sys2Proof.Machine
end

