-- ==== Sys2Proof/Machine/PairCmd.lean ====
section
/-! DEFINITION. The pairing commands (rules R325 to R329) and the final exponentiation commands (rules
R357 to R360); absent without `HAS_PAIR` (R96). -/

namespace Sys2Proof.Machine

/-- `MLSTATE <- m` (R49). -/
def setMl (s : State) (m : MLState) : State := { s with mlstate := m }

/-- PRECOMP (R325): IDENTITY before any inversion; writes no cell. -/
def execPrecomp (b : BankIdx) (rs1 : CellIdx) (s : State) : Out :=
  command { feature := s.cfg.hasPair, src := [ptSpan (fp2 s.cfg) rs1] }
    (fun s =>
      let Q := readPt (fp2 s.cfg) s rs1.toNat
      if isId (fp2 s.cfg) Q then .error .identity
      else (precompute s.cfg Q).map fun B => setMl (setBank s b B) .notStarted) s

/-- The end of a Miller-loop command: twelve cells and `MLSTATE <- 2` (R326, R327, R49). -/
def writeMiller (s : State) (rd : CellIdx) (f : F12) : State :=
  setMl (writeElem (fp12 s.cfg) s rd.toNat f) .finished

/-- MILLER (R326). -/
def execMiller (rd rs1 : CellIdx) (b : BankIdx) (s : State) : Out :=
  command
    { feature := s.cfg.hasPair, dst := [elemSpan (fp12 s.cfg) rd], src := [affSpan (fp s.cfg) rs1],
      banks := [b] }
    (fun s => .ok (writeMiller s rd
      (miller s.cfg [(readAff (fp s.cfg) s rs1.toNat, (bank s b).recs)]))) s

/-- MILLER2 (R327): the first point with bank 0, the second with bank 1. -/
def execMiller2 (rd rs1 rs2 : CellIdx) (s : State) : Out :=
  command
    { feature := s.cfg.hasPair, dst := [elemSpan (fp12 s.cfg) rd],
      src := [affSpan (fp s.cfg) rs1, affSpan (fp s.cfg) rs2], banks := [0, 1] }
    (fun s => .ok (writeMiller s rd
      (miller s.cfg [(readAff (fp s.cfg) s rs1.toNat, (bank s 0).recs),
                     (readAff (fp s.cfg) s rs2.toNat, (bank s 1).recs)]))) s

/-- PAIR and PAIRR: to-affine, precomputation into bank 0 and Miller loop as one step, the value passed
through `post` (R328, R329). -/
def pairOp (post : Config → F12 → Except FaultCode F12) (rd rs1 rs2 : CellIdx) (s : State) : Out :=
  command
    { feature := s.cfg.hasPair, dst := [elemSpan (fp12 s.cfg) rd],
      src := [ptSpan (fp s.cfg) rs1, ptSpan (fp2 s.cfg) rs2] }
    (fun s =>
      let P := readPt (fp s.cfg) s rs1.toNat
      let Q := readPt (fp2 s.cfg) s rs2.toNat
      if isId (fp s.cfg) P || isId (fp2 s.cfg) Q then .error .identity
      else
        match precompute s.cfg Q with
        | .error c => .error c
        | .ok B =>
          (post s.cfg (miller s.cfg [(ptToAffine (fp s.cfg) P, B.recs)])).map fun f =>
            writeMiller (setBank s 0 B) rd f) s

/-- PAIR (R328). -/
def execPair (rd rs1 rs2 : CellIdx) (s : State) : Out :=
  pairOp (fun _ f => .ok f) rd rs1 rs2 s

/-- PAIRR (R329): INVZERO when the Miller value is zero. -/
def execPairr (rd rs1 rs2 : CellIdx) (s : State) : Out :=
  pairOp (fun c f => orInvZero c (finalExp c) f) rd rs1 rs2 s

/-- FEXPE (R357). -/
def execFexpe (rd rs1 : CellIdx) (s : State) : Out :=
  elemOp1? s.cfg.hasPair (fp12 s.cfg) (orInvZero s.cfg (easyPart s.cfg)) rd rs1 s

/-- FEXPH (R358): total; off the cyclotomic subgroup the value is a function of `CSQR_OFF`. -/
def execFexph (rd rs1 : CellIdx) (s : State) : Out :=
  elemOp1 s.cfg.hasPair (fp12 s.cfg) (hardPart s.cfg) rd rs1 s

/-- FEXP (R359). -/
def execFexp (rd rs1 : CellIdx) (s : State) : Out :=
  elemOp1? s.cfg.hasPair (fp12 s.cfg) (orInvZero s.cfg (finalExp s.cfg)) rd rs1 s

/-- EXPZ (R360). -/
def execExpz (rd rs1 : CellIdx) (s : State) : Out :=
  elemOp1 s.cfg.hasPair (fp12 s.cfg) (expZ s.cfg) rd rs1 s

end Sys2Proof.Machine
end

