-- ==== Sys2Proof/Machine/Dispatch.lean ====
section
/-! DEFINITION. The dispatch: one arm per command, each one direct call of the command's meaning. -/

namespace Sys2Proof.Machine

def exec (i : Instr) (s : State) : Host.Outcome State Fault Refusal :=
  match i with
  | .nop => Sys2Proof.Machine.execNop s
  | .ldfe f addr => Sys2Proof.Machine.execLdfe f addr s
  | .stfe f addr => Sys2Proof.Machine.execStfe f addr s
  | .ldraw f addr => Sys2Proof.Machine.execLdraw f addr s
  | .straw f addr => Sys2Proof.Machine.execStraw f addr s
  | .ldk k addr => Sys2Proof.Machine.execLdk k addr s
  | .stk k addr => Sys2Proof.Machine.execStk k addr s
  | .ldki k imm17 => Sys2Proof.Machine.execLdki k imm17 s
  | .mov rd rs1 cnt => Sys2Proof.Machine.execMov rd rs1 cnt s
  | .zero rd cnt => Sys2Proof.Machine.execZero rd cnt s
  | .one rd => Sys2Proof.Machine.execOne rd s
  | .mmul rd rs1 rs2 => Sys2Proof.Machine.execMmul rd rs1 rs2 s
  | .bmul rd rs1 rs2 => Sys2Proof.Machine.execBmul rd rs1 rs2 s
  | .tomont rd rs1 => Sys2Proof.Machine.execTomont rd rs1 s
  | .frommont rd rs1 => Sys2Proof.Machine.execFrommont rd rs1 s
  | .fadd rd rs1 rs2 => Sys2Proof.Machine.execFadd rd rs1 rs2 s
  | .fsub rd rs1 rs2 => Sys2Proof.Machine.execFsub rd rs1 rs2 s
  | .fmul rd rs1 rs2 => Sys2Proof.Machine.execFmul rd rs1 rs2 s
  | .fsqr rd rs1 => Sys2Proof.Machine.execFsqr rd rs1 s
  | .fneg rd rs1 => Sys2Proof.Machine.execFneg rd rs1 s
  | .finv rd rs1 => Sys2Proof.Machine.execFinv rd rs1 s
  | .fpow rd rs1 k => Sys2Proof.Machine.execFpow rd rs1 k s
  | .fsqrt rd rs1 => Sys2Proof.Machine.execFsqrt rd rs1 s
  | .fisz rs1 => Sys2Proof.Machine.execFisz rs1 s
  | .feq rs1 rs2 => Sys2Proof.Machine.execFeq rs1 rs2 s
  | .flt rs1 rs2 => Sys2Proof.Machine.execFlt rs1 rs2 s
  | .fissq rs1 => Sys2Proof.Machine.execFissq rs1 s
  | .fsign rs1 => Sys2Proof.Machine.execFsign rs1 s
  | .fbit rs1 imm10 => Sys2Proof.Machine.execFbit rs1 imm10 s
  | .ffrob rd rs1 pow => Sys2Proof.Machine.execFfrob rd rs1 pow s
  | .f2add rd rs1 rs2 => Sys2Proof.Machine.execF2add rd rs1 rs2 s
  | .f2sub rd rs1 rs2 => Sys2Proof.Machine.execF2sub rd rs1 rs2 s
  | .f2mul rd rs1 rs2 => Sys2Proof.Machine.execF2mul rd rs1 rs2 s
  | .f2sqr rd rs1 => Sys2Proof.Machine.execF2sqr rd rs1 s
  | .f2neg rd rs1 => Sys2Proof.Machine.execF2neg rd rs1 s
  | .f2inv rd rs1 => Sys2Proof.Machine.execF2inv rd rs1 s
  | .f2frob rd rs1 pow => Sys2Proof.Machine.execF2frob rd rs1 pow s
  | .f2isz rs1 => Sys2Proof.Machine.execF2isz rs1 s
  | .f2eq rs1 rs2 => Sys2Proof.Machine.execF2eq rs1 rs2 s
  | .f3add rd rs1 rs2 => Sys2Proof.Machine.execF3add rd rs1 rs2 s
  | .f3sub rd rs1 rs2 => Sys2Proof.Machine.execF3sub rd rs1 rs2 s
  | .f3mul rd rs1 rs2 => Sys2Proof.Machine.execF3mul rd rs1 rs2 s
  | .f3sqr rd rs1 => Sys2Proof.Machine.execF3sqr rd rs1 s
  | .f3neg rd rs1 => Sys2Proof.Machine.execF3neg rd rs1 s
  | .f3inv rd rs1 => Sys2Proof.Machine.execF3inv rd rs1 s
  | .f3frob rd rs1 pow => Sys2Proof.Machine.execF3frob rd rs1 pow s
  | .f3isz rs1 => Sys2Proof.Machine.execF3isz rs1 s
  | .f3eq rs1 rs2 => Sys2Proof.Machine.execF3eq rs1 rs2 s
  | .f6add rd rs1 rs2 => Sys2Proof.Machine.execF6add rd rs1 rs2 s
  | .f6sub rd rs1 rs2 => Sys2Proof.Machine.execF6sub rd rs1 rs2 s
  | .f6mul rd rs1 rs2 => Sys2Proof.Machine.execF6mul rd rs1 rs2 s
  | .f6sqr rd rs1 => Sys2Proof.Machine.execF6sqr rd rs1 s
  | .f6neg rd rs1 => Sys2Proof.Machine.execF6neg rd rs1 s
  | .f6inv rd rs1 => Sys2Proof.Machine.execF6inv rd rs1 s
  | .f6frob rd rs1 pow => Sys2Proof.Machine.execF6frob rd rs1 pow s
  | .f6isz rs1 => Sys2Proof.Machine.execF6isz rs1 s
  | .f6eq rs1 rs2 => Sys2Proof.Machine.execF6eq rs1 rs2 s
  | .f12add rd rs1 rs2 => Sys2Proof.Machine.execF12add rd rs1 rs2 s
  | .f12sub rd rs1 rs2 => Sys2Proof.Machine.execF12sub rd rs1 rs2 s
  | .f12mul rd rs1 rs2 => Sys2Proof.Machine.execF12mul rd rs1 rs2 s
  | .f12sqr rd rs1 => Sys2Proof.Machine.execF12sqr rd rs1 s
  | .f12neg rd rs1 => Sys2Proof.Machine.execF12neg rd rs1 s
  | .f12inv rd rs1 => Sys2Proof.Machine.execF12inv rd rs1 s
  | .f12frob rd rs1 pow => Sys2Proof.Machine.execF12frob rd rs1 pow s
  | .f12isz rs1 => Sys2Proof.Machine.execF12isz rs1 s
  | .f12eq rs1 rs2 => Sys2Proof.Machine.execF12eq rs1 rs2 s
  | .f12uinv rd rs1 => Sys2Proof.Machine.execF12uinv rd rs1 s
  | .f12csqr rd rs1 => Sys2Proof.Machine.execF12csqr rd rs1 s
  | .f12cexp rd rs1 k => Sys2Proof.Machine.execF12cexp rd rs1 k s
  | .pdbl rd rs1 => Sys2Proof.Machine.execPdbl rd rs1 s
  | .padd rd rs1 rs2 => Sys2Proof.Machine.execPadd rd rs1 rs2 s
  | .pmadd rd rs1 rs2 => Sys2Proof.Machine.execPmadd rd rs1 rs2 s
  | .pneg rd rs1 => Sys2Proof.Machine.execPneg rd rs1 s
  | .paff rd rs1 => Sys2Proof.Machine.execPaff rd rs1 s
  | .pisid rs1 => Sys2Proof.Machine.execPisid rs1 s
  | .peq rs1 rs2 => Sys2Proof.Machine.execPeq rs1 rs2 s
  | .piswf rs1 => Sys2Proof.Machine.execPiswf rs1 s
  | .pzero rd => Sys2Proof.Machine.execPzero rd s
  | .pone rd => Sys2Proof.Machine.execPone rd s
  | .psmul rd rs1 k => Sys2Proof.Machine.execPsmul rd rs1 k s
  | .psmulw rd rs1 k wm1 => Sys2Proof.Machine.execPsmulw rd rs1 k wm1 s
  | .winsel1 kd ks => Sys2Proof.Machine.execWinsel1 kd ks s
  | .qdbl rd rs1 => Sys2Proof.Machine.execQdbl rd rs1 s
  | .qadd rd rs1 rs2 => Sys2Proof.Machine.execQadd rd rs1 rs2 s
  | .qmadd rd rs1 rs2 => Sys2Proof.Machine.execQmadd rd rs1 rs2 s
  | .qneg rd rs1 => Sys2Proof.Machine.execQneg rd rs1 s
  | .qaff rd rs1 => Sys2Proof.Machine.execQaff rd rs1 s
  | .qisid rs1 => Sys2Proof.Machine.execQisid rs1 s
  | .qeq rs1 rs2 => Sys2Proof.Machine.execQeq rs1 rs2 s
  | .qiswf rs1 => Sys2Proof.Machine.execQiswf rs1 s
  | .qzero rd => Sys2Proof.Machine.execQzero rd s
  | .qone rd => Sys2Proof.Machine.execQone rd s
  | .qsmul rd rs1 k => Sys2Proof.Machine.execQsmul rd rs1 k s
  | .qsmulw rd rs1 k wm1 => Sys2Proof.Machine.execQsmulw rd rs1 k wm1 s
  | .winsel2 kd ks => Sys2Proof.Machine.execWinsel2 kd ks s
  | .precomp bank rs1 => Sys2Proof.Machine.execPrecomp bank rs1 s
  | .miller rd rs1 bank => Sys2Proof.Machine.execMiller rd rs1 bank s
  | .miller2 rd rs1 rs2 => Sys2Proof.Machine.execMiller2 rd rs1 rs2 s
  | .fexpe rd rs1 => Sys2Proof.Machine.execFexpe rd rs1 s
  | .fexph rd rs1 => Sys2Proof.Machine.execFexph rd rs1 s
  | .fexp rd rs1 => Sys2Proof.Machine.execFexp rd rs1 s
  | .expz rd rs1 => Sys2Proof.Machine.execExpz rd rs1 s
  | .pair rd rs1 rs2 => Sys2Proof.Machine.execPair rd rs1 rs2 s
  | .pairr rd rs1 rs2 => Sys2Proof.Machine.execPairr rd rs1 rs2 s

end Sys2Proof.Machine
end

