-- ==== Sys2Proof/Machine/Host.lean ====
section
/-! DEFINITION. The host port (rules R40 to R53, R66, R386): what a transfer reads and what it changes, the
acceptance of a command word, and the two resets (rules R410 to R413). -/

namespace Sys2Proof.Machine

/-- The opcodes whose acceptance shows `MLSTATE = 1`: MILLER, MILLER2, PAIR, PAIRR (R45, R49). -/
def isMillerOpcode (op : BitVec 8) : Bool :=
  op == 0x91 || op == 0x92 || op == 0x97 || op == 0x98

/-- Acceptance of the command word `w` (R45). The phase is looked up by the opcode alone, whether or not
the rest of the word is legal. -/
def accept (s : State) (w : Word) : State :=
  { s with
    pend := w
    busy := true
    done := false
    mlPrev := s.mlstate
    mlstate := if isMillerOpcode (w.extractLsb' 24 8) then .accumulating else s.mlstate }

/-- Soft reset (R412): the state of R411 with XMEM kept. `Config`, the word on `hrdata` and what is still
to come at the ports are not the reset's to change. -/
def softReset (s : State) : State :=
  { State.resetOf s.cfg with xmem := s.xmem, hrdata := s.hrdata, inputs := s.inputs }

/-- Hard reset (R411, R413): the state of R411, with XMEM holding the bytes it is found to hold. -/
def hardReset (s : State) (xmem : List Host.Cell) : State :=
  { State.resetOf s.cfg with xmem := memOfCells xmem, hrdata := s.hrdata, inputs := s.inputs }

/-- The four bytes from XMEM address `a` as a word, byte lane 0 the lowest address, whatever
`CTRL.ENDIAN` is (R66). -/
def xmemWord (m : List Host.Cell) (a : Nat) : Word :=
  memRead m (a + 3) ++ memRead m (a + 2) ++ memRead m (a + 1) ++ memRead m a

/-- The bytes of a word, byte lane 0 first (R66). -/
def wordBytes (w : Word) : List Byte :=
  [w.extractLsb' 0 8, w.extractLsb' 8 8, w.extractLsb' 16 8, w.extractLsb' 24 8]

/-- Bit 12 of the offset: the access is to the XMEM window (R61). -/
def inWindow (haddr : BitVec 11) : Bool := haddr.getLsbD 10

/-- The XMEM address of a window access: the offset less `0x1000` (R66). -/
def windowAddr (haddr : BitVec 11) : Nat := 4 * (haddr.extractLsb' 0 10).toNat

/-- The word a `HostRead` of byte offset `4 * haddr` returns (R40 to R48, R66). CMD and the reserved
offsets read 0. -/
def hostReadWord (s : State) (haddr : BitVec 11) : Word :=
  if inWindow haddr then xmemWord s.xmem (windowAddr haddr)
  else
    match haddr.toNat with
    | 0 => idWord
    | 1 => capWord s.cfg
    | 2 => s.ctrl
    | 3 => statusWord s
    | 5 => fcodeWord s
    | 6 => s.fcmd
    | _ => 0

/-- `HostRead(4 * haddr)`: the word goes to `hrdata`; there is no other effect (R52). -/
def hostRead (s : State) (haddr : BitVec 11) : State := { s with hrdata := hostReadWord s haddr }

/-- A host write that is ignored because of BUSY or FAULT (R44). -/
def ignoredWrite (s : State) : State := { s with hosterr := true }

/-- A write to CTRL (R43, R53): the soft reset at any time, else IE_DONE, IE_FAULT and ENDIAN. -/
def writeCtrl (s : State) (w : Word) : State :=
  if w.getLsbD 31 then softReset s
  else if s.busy then ignoredWrite s
  else { s with ctrl := w &&& 7 }

/-- A write to STATUS (R44): bits 1 and 4 clear DONE and HOSTERR. -/
def writeStatus (s : State) (w : Word) : State :=
  if s.busy then ignoredWrite s
  else { s with done := s.done && !w.getLsbD 1, hosterr := s.hosterr && !w.getLsbD 4 }

/-- A write to CMD (R45). -/
def writeCmd (s : State) (w : Word) : State :=
  if s.busy || s.fault then ignoredWrite s else accept s w

/-- A write to the XMEM window (R66); legal while `FAULT = 1`. -/
def writeWindow (s : State) (a : Nat) (w : Word) : State :=
  if s.busy then ignoredWrite s else { s with xmem := memWriteList s.xmem a (wordBytes w) }

/-- A write to a read-only register: ignored (R41, R42, R46, R47), and while BUSY it sets HOSTERR, as every
write but the soft reset does (R391). -/
def writeReadOnly (s : State) : State := if s.busy then ignoredWrite s else s

/-- `HostWrite(4 * haddr, w)` (R40 to R48, R66, R391). Writes to the reserved offsets are ignored with no
HOSTERR, whatever BUSY is (R48; assumption 11). -/
def hostWrite (s : State) (haddr : BitVec 11) (w : Word) : State :=
  if inWindow haddr then writeWindow s (windowAddr haddr) w
  else
    match haddr.toNat with
    | 2 => writeCtrl s w
    | 3 => writeStatus s w
    | 4 => writeCmd s w
    | 0 | 1 | 5 | 6 => writeReadOnly s
    | _ => s

end Sys2Proof.Machine
end

