-- ==== Sys2Proof/Machine/Sequencer.lean ====
section
/-! DEFINITION. The sequencer's step and the order of events at the ports (rules R92, R391). -/

namespace Sys2Proof.Machine

/-- Executing the accepted command word: decode, then the command's meaning; a word that is no command
raises ILLEGAL before any state is looked at (R92, R373). -/
def execPending (s : State) : Out :=
  match decode s.pend with
  | .ok i => exec i s
  | .error _ => .next (takeFault .illegal s)

/-- One step of the sequencer: it executes the accepted command; idle, it does nothing (R92, R411). -/
def sequence (s : State) : Out := if s.busy then execPending s else .next s

/-- What happens when the event `e` is next (R391). -/
def handle (e : Event) (s : State) : Out :=
  match e with
  | .sequencer => sequence s
  | .hostRead haddr => .next (hostRead s haddr)
  | .hostWrite haddr w => .next (hostWrite s haddr w)
  | .hardReset xmem => .next (hardReset s xmem)

/-- The next event takes place and is no longer to come; with none to come the sequencer steps. -/
def nextEvent (s : State) : Out :=
  match s.inputs with
  | [] => sequence s
  | e :: es => handle e { s with inputs := es }

/-- The events to come, with the sequencer's step first: none need be said when none is to come. -/
def sequencerFirst : List Event → List Event
  | [] => []
  | es => .sequencer :: es

end Sys2Proof.Machine
end

