-- ==== Sys2Proof/Machine/Step.lean ====
section
/-! DEFINITION. One step of the machine: one event at the ports, a host transfer, a reset or one step of the
sequencer (rules R7, R391, R430). -/

namespace Sys2Proof.Machine

/-- One step. A configuration that is not well formed is refused (R9, U1). -/
def step (s : State) : Host.Outcome State Fault Refusal :=
  if s.cfg.wfCheck then nextEvent s else .refused .configNotWellFormed

/-- The state in which the low `nbits` bits of `w`, as a command word, have just been accepted and the
sequencer's step is next, so that `step` executes exactly that word (R45; assumption 7). -/
def State.withFetchWord (s : State) (nbits w : Nat) : State :=
  { accept s (BitVec.ofNat 32 (w % 2 ^ nbits)) with inputs := sequencerFirst s.inputs }

end Sys2Proof.Machine
end

