-- ==== Sys2Proof/Safety.lean ====
section
/-! DEFINITION. What counts as a sound state and a safe run, and the terms claims use: the invariants of
rule R51, what a completed and what a faulted command leave unchanged (rules R16, R24, R68, R385), and when an
operand can be used (rules R15, R92). -/

namespace Sys2Proof.Machine

/-! The invariants. -/

/-- (I1) Every valid cell holds a value below `p` (R51, R21). -/
def CellsBelowP (s : State) : Prop :=
  ∀ i < 128, cellValid s i = true → rawCell s i < s.cfg.p

/-- (I3) A valid bank holds exactly `NREC` records (R51, R29). -/
def BanksFull (s : State) : Prop :=
  ∀ b < 2, bankValid s (BitVec.ofNat 1 b) = true → (bank s (BitVec.ofNat 1 b)).recs.length = nrec s.cfg

/-- (I4) `BUSY = 1` implies `FAULT = 0` and `DONE = 0` (R51). -/
def BusyClean (s : State) : Prop := s.busy = true → s.fault = false ∧ s.done = false

/-- (I5) `FAULT = 1` implies `FCODE` in `1..9` and `BUSY = 0`; `FAULT = 0` implies `FCODE = 0` and
`FCMD = 0` (R51). -/
def FaultRecorded (s : State) : Prop :=
  (s.fault = true → 1 ≤ s.fcode.toNat ∧ s.fcode.toNat ≤ 9 ∧ s.busy = false) ∧
  (s.fault = false → s.fcode = 0 ∧ s.fcmd = 0)

/-- (I6) `MLSTATE = 1` only while `BUSY = 1` (R51), and then for a Miller-loop command (R45); the phase a
fault would restore is not 1 (R49). -/
def PhaseShown (s : State) : Prop :=
  (s.mlstate = .accumulating → s.busy = true ∧ isMillerOpcode (s.pend.extractLsb' 24 8) = true) ∧
  s.mlPrev ≠ .accumulating

/-- The reserved bits of CTRL are 0 (R43). -/
def CtrlReserved (s : State) : Prop := s.ctrl.toNat < 8

/-- The invariant of the machine: R51, with the canonical form of XMEM and the reserved bits of CTRL. I2
holds of every state, by the width of `K`; I7 is about two states. -/
def Inv (s : State) : Prop :=
  CellsBelowP s ∧ BanksFull s ∧ BusyClean s ∧ FaultRecorded s ∧ PhaseShown s ∧ CtrlReserved s ∧
  memWf s.xmem = true

/-- A well-formed configuration (R9), and every valid cell below `p` (I1): what the commands' rules take for
granted. -/
def Sound (s : State) : Prop := s.cfg.WF ∧ CellsBelowP s

/-! A safe run. -/

/-- The next state of an outcome, if it has one. -/
def nextOf : Out → Option State
  | .next t => some t
  | .fault _ => none
  | .refused _ => none

/-- `n` steps from `s` all answer a next state. -/
def Runs : Nat → State → Prop
  | 0, _ => True
  | n + 1, s => ∃ t, step s = .next t ∧ Runs n t

/-! Operands. -/

/-- A destination span of `n` cells from `b` fits (R15). -/
def Dest (b : CellIdx) (n : Nat) : Prop := b.toNat + n ≤ 128

/-- A source span of `n` cells from `b` fits and is valid (R15, R23). -/
def Source (s : State) (b : CellIdx) (n : Nat) : Prop :=
  b.toNat + n ≤ 128 ∧ ∀ i < n, cellValid s (b.toNat + i) = true

/-! Frames. -/

/-- What every completed command does and leaves, whatever it writes (R16, R92 step 7, R49). -/
def Completed (s t : State) : Prop :=
  t.busy = false ∧ t.done = true ∧ t.cfg = s.cfg ∧ t.ctrl = s.ctrl ∧ t.fault = s.fault ∧
  t.hosterr = s.hosterr ∧ t.fcode = s.fcode ∧ t.fcmd = s.fcmd ∧ t.pend = s.pend ∧
  t.mlPrev = s.mlPrev ∧ t.hrdata = s.hrdata ∧ t.inputs = s.inputs

/-- Every cell outside the `n` cells from `b` keeps its content and its valid bit (R24). -/
def SameCells (s t : State) (b n : Nat) : Prop :=
  ∀ i < 128, ¬(b ≤ i ∧ i < b + n) → rawCell t i = rawCell s i ∧ cellValid t i = cellValid s i

/-- The `n` cells from `b` are valid and below `p` (R21, R23). -/
def WrittenCells (t : State) (b n : Nat) : Prop :=
  ∀ i < n, cellValid t (b + i) = true ∧ rawCell t (b + i) < t.cfg.p

/-- Every integer register keeps its content and its valid bit. -/
def SameK (s t : State) : Prop := ∀ r : KIdx, kReg t r = kReg s r ∧ kValid t r = kValid s r

/-- Every bank keeps its content and its valid bit. -/
def SameBanks (s t : State) : Prop := ∀ b : BankIdx, bank t b = bank s b ∧ bankValid t b = bankValid s b

/-- The `n` bytes of XMEM from `addr` as an integer, in the byte order of `CTRL.ENDIAN` (R64). -/
def bytesValue (s : State) (addr n : Nat) : Nat :=
  if s.ctrl.getLsbD 2 then ∑ i ∈ Finset.range n, (memRead s.xmem (addr + i)).toNat * 256 ^ (n - 1 - i)
  else ∑ i ∈ Finset.range n, (memRead s.xmem (addr + i)).toNat * 256 ^ i

/-- Every byte of XMEM outside the `n` bytes from `addr` is unchanged. -/
def SameMem (s t : State) (addr n : Nat) : Prop :=
  ∀ a, ¬(addr ≤ a ∧ a < addr + n) → memRead t.xmem a = memRead s.xmem a

/-- Nothing but the completion: no cell, register, bank, flag, phase or byte changes. -/
def OnlyCompletes (s t : State) : Prop :=
  Completed s t ∧ SameCells s t 0 0 ∧ SameK s t ∧ SameBanks s t ∧ t.t = s.t ∧ t.mlstate = s.mlstate ∧
  SameMem s t 0 0

/-- The command writes the `n` cells from `b`, with values below `p`, and nothing else. -/
def OnlyCells (s t : State) (b : CellIdx) (n : Nat) : Prop :=
  Completed s t ∧ SameCells s t b.toNat n ∧ WrittenCells t b.toNat n ∧ SameK s t ∧ SameBanks s t ∧
  t.t = s.t ∧ t.mlstate = s.mlstate ∧ SameMem s t 0 0

/-- The command writes `T` and nothing else. -/
def OnlyT (s t : State) : Prop :=
  Completed s t ∧ SameCells s t 0 0 ∧ SameK s t ∧ SameBanks s t ∧ t.mlstate = s.mlstate ∧
  SameMem s t 0 0

/-- The command writes the integer register `r` and nothing else. -/
def OnlyK (s t : State) (r : KIdx) : Prop :=
  Completed s t ∧ SameCells s t 0 0 ∧ kValid t r = true ∧
  (∀ q, q ≠ r → kReg t q = kReg s q ∧ kValid t q = kValid s q) ∧ SameBanks s t ∧ t.t = s.t ∧
  t.mlstate = s.mlstate ∧ SameMem s t 0 0

/-- The command writes the `n` bytes of XMEM from `addr` and nothing else. -/
def OnlyMem (s t : State) (addr n : Nat) : Prop :=
  Completed s t ∧ SameCells s t 0 0 ∧ SameK s t ∧ SameBanks s t ∧ t.t = s.t ∧ t.mlstate = s.mlstate ∧
  SameMem s t addr n

/-- Every bank but `b` keeps its content and its valid bit, and `b` is valid (R29). -/
def OtherBanks (s t : State) (b : BankIdx) : Prop :=
  bankValid t b = true ∧ ∀ d, d ≠ b → bank t d = bank s d ∧ bankValid t d = bankValid s d

/-- PRECOMP writes the bank `b` and the phase, and nothing else (R325). -/
def OnlyBank (s t : State) (b : BankIdx) : Prop :=
  Completed s t ∧ SameCells s t 0 0 ∧ SameK s t ∧ OtherBanks s t b ∧ t.t = s.t ∧
  t.mlstate = .notStarted ∧ SameMem s t 0 0

/-- A Miller-loop command writes the twelve cells from `b` and the phase (R326, R327); of the banks this
says nothing. -/
def MillerCells (s t : State) (b : CellIdx) : Prop :=
  Completed s t ∧ SameCells s t b.toNat 12 ∧ WrittenCells t b.toNat 12 ∧ SameK s t ∧ t.t = s.t ∧
  t.mlstate = .finished ∧ SameMem s t 0 0

/-- Fault entry with code `code` (R385): the four fields, the phase as before acceptance, and nothing
else. -/
def faulted (s : State) (code : BitVec 4) : State :=
  { s with fault := true, fcode := code, fcmd := s.pend, busy := false, mlstate := s.mlPrev }

end Sys2Proof.Machine
end

