-- ==== Sys2Proof/Safety/Rings.lean ====
section
/-! DEFINITION. The towers as quotient rings, and the spec's formulas in ring notation: the words in which
claims about values are stated. An element is read from the canonical values of consecutive cells by the
layout of rules R25 and R26; nothing here uses the field operations of Machine/. -/

namespace Sys2Proof.Spec

open Machine Polynomial

/-! The towers (R140, R180, R200, R220, R221, R240). -/

/-- `Fp` (R140). -/
abbrev A1 (c : Config) : Type := ZMod c.p

/-- `Fp2 = Fp[u]/(u^2 - NR2)` (R180). -/
abbrev A2 (c : Config) : Type := AdjoinRoot (X ^ 2 - C (c.nr2 : A1 c))

/-- `Fp3 = Fp[u]/(u^3 - NR3)` (R200). -/
abbrev A3 (c : Config) : Type := AdjoinRoot (X ^ 3 - C (c.nr3 : A1 c))

/-- `x + y*u` (R180). -/
noncomputable def el2 (c : Config) (x y : Nat) : A2 c := (x : A2 c) + (y : A2 c) * AdjoinRoot.root _

/-- `x + y*u + z*u^2` (R200). -/
noncomputable def el3 (c : Config) (x y z : Nat) : A3 c :=
  (x : A3 c) + (y : A3 c) * AdjoinRoot.root _ + (z : A3 c) * AdjoinRoot.root _ ^ 2

/-- `Fp6 = Fp2[v]/(v^3 - NR6)` (R220). -/
abbrev A6 (c : Config) (n : F2) : Type := AdjoinRoot (X ^ 3 - C (el2 c n.c0 n.c1))

/-- `Fp6 = Fp3[w]/(w^2 - NR6)` (R221). -/
abbrev A6b (c : Config) (n : F3) : Type := AdjoinRoot (X ^ 2 - C (el3 c n.c0 n.c1 n.c2))

/-- `x + y*v + z*v^2` (R220). -/
noncomputable def el6 (c : Config) (n : F2) (x y z : A2 c) : A6 c n :=
  AdjoinRoot.of _ x + AdjoinRoot.of _ y * AdjoinRoot.root _ + AdjoinRoot.of _ z * AdjoinRoot.root _ ^ 2

/-- `x + y*w` (R221). -/
noncomputable def el6b (c : Config) (n : F3) (x y : A3 c) : A6b c n :=
  AdjoinRoot.of _ x + AdjoinRoot.of _ y * AdjoinRoot.root _

/-- `NR12` (R9). -/
noncomputable def nr12 (c : Config) (n : F2) : A6 c n :=
  el6 c n (el2 c c.nr12.c0.c0 c.nr12.c0.c1) (el2 c c.nr12.c1.c0 c.nr12.c1.c1)
    (el2 c c.nr12.c2.c0 c.nr12.c2.c1)

/-- `Fp12 = Fp6[w]/(w^2 - NR12)` (R240). -/
abbrev A12 (c : Config) (n : F2) : Type := AdjoinRoot (X ^ 2 - C (nr12 c n))

/-- `x + y*w` (R240). -/
noncomputable def el12 (c : Config) (n : F2) (x y : A6 c n) : A12 c n :=
  AdjoinRoot.of _ x + AdjoinRoot.of _ y * AdjoinRoot.root _

/-! Elements and points in cells, given the canonical value of every cell (R25, R26). -/

noncomputable def ev1 (c : Config) (v : Nat → Nat) (b : Nat) : A1 c := (v b : A1 c)

noncomputable def ev2 (c : Config) (v : Nat → Nat) (b : Nat) : A2 c := el2 c (v b) (v (b + 1))

noncomputable def ev3 (c : Config) (v : Nat → Nat) (b : Nat) : A3 c := el3 c (v b) (v (b + 1)) (v (b + 2))

noncomputable def ev6 (c : Config) (n : F2) (v : Nat → Nat) (b : Nat) : A6 c n :=
  el6 c n (ev2 c v b) (ev2 c v (b + 2)) (ev2 c v (b + 4))

noncomputable def ev6b (c : Config) (n : F3) (v : Nat → Nat) (b : Nat) : A6b c n :=
  el6b c n (ev3 c v b) (ev3 c v (b + 3))

noncomputable def ev12 (c : Config) (n : F2) (v : Nat → Nat) (b : Nat) : A12 c n :=
  el12 c n (ev6 c n v b) (ev6 c n v (b + 6))

/-- The Jacobian point at base `b` whose coordinates take `n` cells each (R26). -/
def evPt {A : Type} (n : Nat) (ev : (Nat → Nat) → Nat → A) (v : Nat → Nat) (b : Nat) : Pt A :=
  ⟨ev v b, ev v (b + n), ev v (b + 2 * n)⟩

/-- The affine point at base `b` (R26). -/
def evAff {A : Type} (n : Nat) (ev : (Nat → Nat) → Nat → A) (v : Nat → Nat) (b : Nat) : Aff A :=
  ⟨ev v b, ev v (b + n)⟩

/-! The group law in ring notation (R261 to R265, R300, R301). -/

section Group

variable {A : Type} [CommRing A]

/-- `(0, 1, 0)` (R261). -/
def zeroPt : Pt A := ⟨0, 1, 0⟩

open Classical in
/-- `Dbl` (R262). -/
noncomputable def dbl (a : A) (P : Pt A) : Pt A :=
  if P.z = 0 then P
  else
    let S := 4 * P.x * P.y ^ 2
    let M := 3 * P.x ^ 2 + a * P.z ^ 4
    let X3 := M ^ 2 - 2 * S
    ⟨X3, M * (S - X3) - 8 * P.y ^ 4, 2 * P.y * P.z⟩

open Classical in
/-- `Add` (R263). -/
noncomputable def add (a : A) (P Q : Pt A) : Pt A :=
  if P.z = 0 then Q
  else if Q.z = 0 then P
  else
    let U1 := P.x * Q.z ^ 2
    let U2 := Q.x * P.z ^ 2
    let S1 := P.y * Q.z ^ 3
    let S2 := Q.y * P.z ^ 3
    if U1 = U2 then
      if S1 = S2 then dbl a P else zeroPt
    else
      let H := U2 - U1
      let J := 4 * H ^ 3
      let r := 2 * (S2 - S1)
      let V := 4 * U1 * H ^ 2
      let X3 := r ^ 2 - J - 2 * V
      ⟨X3, r * (V - X3) - 2 * S1 * J, 2 * P.z * Q.z * H⟩

open Classical in
/-- `Madd` (R264). -/
noncomputable def madd (a : A) (P : Pt A) (Q : Aff A) : Pt A :=
  if P.z = 0 then ⟨Q.x, Q.y, 1⟩
  else
    let U2 := Q.x * P.z ^ 2
    let S2 := Q.y * P.z ^ 3
    if P.x = U2 then
      if P.y = S2 then dbl a P else zeroPt
    else
      let H := U2 - P.x
      let J := 4 * H ^ 3
      let r := 2 * (S2 - P.y)
      let V := 4 * P.x * H ^ 2
      let X3 := r ^ 2 - J - 2 * V
      ⟨X3, r * (V - X3) - 2 * P.y * J, 2 * P.z * H⟩

/-- `Neg` (R265). -/
def neg (P : Pt A) : Pt A := ⟨P.x, -P.y, P.z⟩

/-- The digits of `k` in base `base`, the most significant first; none when `k = 0`. -/
def digitsFrom (base k : Nat) : List Nat := (Nat.digits base k).reverse

/-- `Smul` (R300): from the bit below the most significant one down to bit 0. -/
noncomputable def smul (a : A) (P : Pt A) (k : Nat) : Pt A :=
  match digitsFrom 2 k with
  | [] => zeroPt
  | _ :: bits => bits.foldl (fun acc d => if d = 1 then add a (dbl a acc) P else dbl a acc) P

/-- The table entry `T[d]` of `Smulw` (R301). -/
noncomputable def entry (a : A) (P : Pt A) : Nat → Pt A
  | 0 => zeroPt
  | 1 => P
  | d + 2 => add a (entry a P (d + 1)) P

/-- `Smulw` (R301): from the most significant digit in base `2^w` down. -/
noncomputable def smulw (a : A) (P : Pt A) (k w : Nat) : Pt A :=
  (digitsFrom (2 ^ w) k).foldl
    (fun acc d => if d = 0 then (dbl a)^[w] acc else add a ((dbl a)^[w] acc) (entry a P d)) zeroPt

end Group

/-! The group of a curve, as Mathlib has it (R260, R290). -/

section Law

variable {F : Type} [Field F]

/-- `y^2 = x^3 + a*x + b` (R260). -/
def curve (a b : F) : WeierstrassCurve.Affine F := ⟨0, 0, 0, a, b⟩

/-- The triple represents the point: `Z = 0` the identity, else `(X * Z^-2, Y * Z^-3)` (R260, R261). -/
def Represents {a b : F} (P : Pt F) : (curve a b).Point → Prop
  | .zero => P.z = 0
  | .some x y _ => P.z ≠ 0 ∧ x * P.z ^ 2 = P.x ∧ y * P.z ^ 3 = P.y

end Law

/-! The pairing engine in ring notation (R320 to R324, R355). -/

section Pairing

variable {A : Type} [CommRing A]

/-- A record `(ell_0, ell_VV, ell_VW)` (R29). -/
structure Line (A : Type) where
  ell0  : A
  ellVV : A
  ellVW : A

/-- `DoublingStep` (R320), with `half = TWO_INV`, `tw = TWIST`, `B = TWIST_B`. -/
def dblStep (half tw B : A) (R : Pt A) : Pt A × Line A :=
  let E := 3 * B * R.z ^ 2
  (⟨half * R.x * R.y * (R.y ^ 2 - 3 * E), (half * (R.y ^ 2 + 3 * E)) ^ 2 - 3 * E ^ 2, 2 * R.y ^ 3 * R.z⟩,
   ⟨tw * (E - R.y ^ 2), 3 * R.x ^ 2, -(2 * R.y * R.z)⟩)

/-- `AdditionStep` (R321). -/
def addStep (tw : A) (R : Pt A) (q : Aff A) : Pt A × Line A :=
  let D := R.x - q.x * R.z
  let E := R.y - q.y * R.z
  let J := D ^ 3 + R.z * E ^ 2 - 2 * R.x * D ^ 2
  (⟨D * J, E * (R.x * D ^ 2 - J) - D ^ 3 * R.y, R.z * D ^ 3⟩, ⟨tw * (E * q.x - D * q.y), -E, D⟩)

/-- The main loop of `Precompute` over the bits of the loop count below its leading one, from the point
`q` (R322): the running point after it and the records in order. -/
def mainLoop (half tw B : A) (q : Aff A) (loopcount : Nat) : Pt A × List (Line A) :=
  (digitsFrom 2 loopcount).tail.foldl
    (fun st d =>
      let r1 := dblStep half tw B st.1
      let r2 := addStep tw r1.1 q
      if d = 1 then (r2.1, st.2 ++ [r1.2, r2.2]) else (r1.1, st.2 ++ [r1.2]))
    (⟨q.x, q.y, 1⟩, [])

/-- The step of a negative loop count, at the running point `R` with `zi = R.Z^-1` (R322). -/
def negStep (tw : A) (R : Pt A) (zi : A) : Line A := (addStep tw R ⟨R.x * zi, -(R.y * zi)⟩).2

/-- `Miller` (R324), with `line i` the product of the lines of every pair at record `i`. -/
def miller (loopcount : Nat) (loopneg : Bool) (line : Nat → A) : A :=
  let r := (digitsFrom 2 loopcount).tail.foldl
    (fun st d =>
      let f := st.1 ^ 2 * line st.2
      if d = 1 then (f * line (st.2 + 1), st.2 + 2) else (f, st.2 + 1))
    ((1, 0) : A × Nat)
  if loopneg then r.1 * line r.2 else r.1

end Pairing

/-- An `Fp2` value of a bank. -/
noncomputable def elF2 (c : Config) (a : F2) : A2 c := el2 c a.c0 a.c1

/-- A record of a bank. -/
noncomputable def elLine (c : Config) (l : LineRec) : Line (A2 c) :=
  ⟨elF2 c l.ell0, elF2 c l.ellVV, elF2 c l.ellVW⟩

/-- `GLine(c, (px, py))` (R323). -/
noncomputable def gline (c : Config) (n : F2) (l : Line (A2 c)) (px py : Nat) : A12 c n :=
  el12 c n (el6 c n l.ell0 0 ((px : A2 c) * l.ellVV)) (el6 c n 0 ((py : A2 c) * l.ellVW) 0)

/-- The line of record `i` of the bank `bk` at the affine point at base `b` (R323, R324). -/
noncomputable def lineAt (c : Config) (n : F2) (bk : Bank) (v : Nat → Nat) (b i : Nat) : A12 c n :=
  gline c n (elLine c (bk.recs.getD i default)) (v b) (v (b + 1))

/-- `p^4 - p^2 + 1` (R350). -/
def phi12 (c : Config) : Nat := c.p ^ 4 - c.p ^ 2 + 1

/-- `CYC(a)` (R350). -/
def Cyc (c : Config) (n : F2) (a : A12 c n) : Prop := a ≠ 0 ∧ a ^ phi12 c = 1

/-- `z` (R353). -/
def zParam (c : Config) : Int := if c.zneg then -(c.zabs : Int) else c.zabs

/-- The exponent of every slot after a step (R355). -/
def stepExponent (c : Config) (X : Slot → Int) : ChainStep → Slot → Int
  | .csq d s => Function.update X d (2 * X s)
  | .mul d s1 s2 => Function.update X d (X s1 + X s2)
  | .frb d s k => Function.update X d ((c.p : Int) ^ k.val * X s)
  | .uin d s => Function.update X d (-X s)
  | .exz d s => Function.update X d (zParam c * X s)

/-- `X(CHAINOUT)`, the total exponent of the chain (R355). -/
def chainExponent (c : Config) : Int :=
  c.chain.foldl (stepExponent c) (fun i => if i = 0 then 1 else 0) c.chainout

end Sys2Proof.Spec
end

