-- ==== Sys2Proof/Safety/Table.lean ====
section
/-! DEFINITION. The operand table: which unit a command needs (rule R96), which cells, integer registers and
banks it reads and writes and how many (rules R15, R91, R94), and whether it writes `T`, XMEM or the phase.
Claims about every command are stated with it; the meanings do not use it. -/

namespace Sys2Proof.Spec

open Machine

/-- The feature requirement of the command (R96). -/
def present (c : Config) : Instr → Bool
  | .nop | .ldfe _ _ | .stfe _ _ | .ldraw _ _ | .straw _ _ | .ldk _ _ | .stk _ _ | .ldki _ _
  | .mov _ _ _ | .zero _ _ | .one _ | .mmul _ _ _ | .bmul _ _ _ | .tomont _ _ | .frommont _ _
  | .fadd _ _ _ | .fsub _ _ _ | .fmul _ _ _ | .fsqr _ _ | .fneg _ _ | .finv _ _ | .fpow _ _ _
  | .fsqrt _ _ | .fisz _ | .feq _ _ | .flt _ _ | .fissq _ | .fsign _ | .fbit _ _ | .ffrob _ _ _
  | .pdbl _ _ | .padd _ _ _ | .pmadd _ _ _ | .pneg _ _ | .paff _ _ | .pisid _ | .peq _ _ | .piswf _
  | .pzero _ | .pone _ | .psmul _ _ _ | .psmulw _ _ _ _ | .winsel1 _ _ => true
  | .f2add _ _ _ | .f2sub _ _ _ | .f2mul _ _ _ | .f2sqr _ _ | .f2neg _ _ | .f2inv _ _ | .f2frob _ _ _
  | .f2isz _ | .f2eq _ _ => c.hasFp2
  | .f3add _ _ _ | .f3sub _ _ _ | .f3mul _ _ _ | .f3sqr _ _ | .f3neg _ _ | .f3inv _ _ | .f3frob _ _ _
  | .f3isz _ | .f3eq _ _ => c.hasFp3
  | .f6add _ _ _ | .f6sub _ _ _ | .f6mul _ _ _ | .f6sqr _ _ | .f6neg _ _ | .f6inv _ _ | .f6frob _ _ _
  | .f6isz _ | .f6eq _ _ => decide (c.f6 ≠ .none)
  | .f12add _ _ _ | .f12sub _ _ _ | .f12mul _ _ _ | .f12sqr _ _ | .f12neg _ _ | .f12inv _ _
  | .f12frob _ _ _ | .f12isz _ | .f12eq _ _ | .f12uinv _ _ | .f12csqr _ _ | .f12cexp _ _ _ => c.hasFp12
  | .qdbl _ _ | .qadd _ _ _ | .qmadd _ _ _ | .qneg _ _ | .qaff _ _ | .qisid _ | .qeq _ _ | .qiswf _
  | .qzero _ | .qone _ | .qsmul _ _ _ | .qsmulw _ _ _ _ | .winsel2 _ _ => c.hasG2
  | .precomp _ _ | .miller _ _ _ | .miller2 _ _ _ | .fexpe _ _ | .fexph _ _ | .fexp _ _ | .expz _ _
  | .pair _ _ _ | .pairr _ _ _ => c.hasPair

/-- The operands of a command: the spans of cells it writes and reads, each a base and a count (R15), the
integer registers it reads, the banks it reads. -/
structure Operands where
  writes : List (CellIdx × Nat) := []
  reads : List (CellIdx × Nat) := []
  readsK : List KIdx := []
  readsCM : List BankIdx := []

/-- The operands of each command (R15, R91, and the command's rule). -/
def operands : Instr → Operands
  | .nop | .ldk _ _ | .ldki _ _ => { }
  | .ldfe f _ | .ldraw f _ => { writes := [(f, 1)] }
  | .stfe f _ | .straw f _ => { reads := [(f, 1)] }
  | .stk k _ => { readsK := [k] }
  | .mov rd rs1 cnt => { writes := [(rd, cnt.toNat)], reads := [(rs1, cnt.toNat)] }
  | .zero rd cnt => { writes := [(rd, cnt.toNat)] }
  | .one rd => { writes := [(rd, 1)] }
  | .mmul rd rs1 rs2 | .bmul rd rs1 rs2 | .fadd rd rs1 rs2 | .fsub rd rs1 rs2 | .fmul rd rs1 rs2 => { writes := [(rd, 1)], reads := [(rs1, 1), (rs2, 1)] }
  | .tomont rd rs1 | .frommont rd rs1 | .fsqr rd rs1 | .fneg rd rs1 | .finv rd rs1 | .fsqrt rd rs1
  | .ffrob rd rs1 _ => { writes := [(rd, 1)], reads := [(rs1, 1)] }
  | .fpow rd rs1 k => { writes := [(rd, 1)], reads := [(rs1, 1)], readsK := [k] }
  | .fisz rs1 | .fissq rs1 | .fsign rs1 | .fbit rs1 _ => { reads := [(rs1, 1)] }
  | .feq rs1 rs2 | .flt rs1 rs2 => { reads := [(rs1, 1), (rs2, 1)] }
  | .f2add rd rs1 rs2 | .f2sub rd rs1 rs2 | .f2mul rd rs1 rs2 => { writes := [(rd, 2)], reads := [(rs1, 2), (rs2, 2)] }
  | .f2sqr rd rs1 | .f2neg rd rs1 | .f2inv rd rs1 | .f2frob rd rs1 _ => { writes := [(rd, 2)], reads := [(rs1, 2)] }
  | .f2isz rs1 => { reads := [(rs1, 2)] }
  | .f2eq rs1 rs2 => { reads := [(rs1, 2), (rs2, 2)] }
  | .f3add rd rs1 rs2 | .f3sub rd rs1 rs2 | .f3mul rd rs1 rs2 => { writes := [(rd, 3)], reads := [(rs1, 3), (rs2, 3)] }
  | .f3sqr rd rs1 | .f3neg rd rs1 | .f3inv rd rs1 | .f3frob rd rs1 _ => { writes := [(rd, 3)], reads := [(rs1, 3)] }
  | .f3isz rs1 => { reads := [(rs1, 3)] }
  | .f3eq rs1 rs2 => { reads := [(rs1, 3), (rs2, 3)] }
  | .f6add rd rs1 rs2 | .f6sub rd rs1 rs2 | .f6mul rd rs1 rs2 => { writes := [(rd, 6)], reads := [(rs1, 6), (rs2, 6)] }
  | .f6sqr rd rs1 | .f6neg rd rs1 | .f6inv rd rs1 | .f6frob rd rs1 _ => { writes := [(rd, 6)], reads := [(rs1, 6)] }
  | .f6isz rs1 => { reads := [(rs1, 6)] }
  | .f6eq rs1 rs2 => { reads := [(rs1, 6), (rs2, 6)] }
  | .f12add rd rs1 rs2 | .f12sub rd rs1 rs2 | .f12mul rd rs1 rs2 => { writes := [(rd, 12)], reads := [(rs1, 12), (rs2, 12)] }
  | .f12sqr rd rs1 | .f12neg rd rs1 | .f12inv rd rs1 | .f12frob rd rs1 _ | .f12uinv rd rs1
  | .f12csqr rd rs1 => { writes := [(rd, 12)], reads := [(rs1, 12)] }
  | .f12isz rs1 => { reads := [(rs1, 12)] }
  | .f12eq rs1 rs2 => { reads := [(rs1, 12), (rs2, 12)] }
  | .f12cexp rd rs1 k => { writes := [(rd, 12)], reads := [(rs1, 12)], readsK := [k] }
  | .pdbl rd rs1 | .pneg rd rs1 => { writes := [(rd, 3)], reads := [(rs1, 3)] }
  | .padd rd rs1 rs2 => { writes := [(rd, 3)], reads := [(rs1, 3), (rs2, 3)] }
  | .pmadd rd rs1 rs2 => { writes := [(rd, 3)], reads := [(rs1, 3), (rs2, 2)] }
  | .paff rd rs1 => { writes := [(rd, 2)], reads := [(rs1, 3)] }
  | .pisid rs1 | .piswf rs1 => { reads := [(rs1, 3)] }
  | .peq rs1 rs2 => { reads := [(rs1, 3), (rs2, 3)] }
  | .pzero rd | .pone rd => { writes := [(rd, 3)] }
  | .psmul rd rs1 k | .psmulw rd rs1 k _ => { writes := [(rd, 3)], reads := [(rs1, 3)], readsK := [k] }
  | .qdbl rd rs1 | .qneg rd rs1 => { writes := [(rd, 6)], reads := [(rs1, 6)] }
  | .qadd rd rs1 rs2 => { writes := [(rd, 6)], reads := [(rs1, 6), (rs2, 6)] }
  | .qmadd rd rs1 rs2 => { writes := [(rd, 6)], reads := [(rs1, 6), (rs2, 4)] }
  | .qaff rd rs1 => { writes := [(rd, 4)], reads := [(rs1, 6)] }
  | .qisid rs1 | .qiswf rs1 => { reads := [(rs1, 6)] }
  | .qeq rs1 rs2 => { reads := [(rs1, 6), (rs2, 6)] }
  | .qzero rd | .qone rd => { writes := [(rd, 6)] }
  | .qsmul rd rs1 k | .qsmulw rd rs1 k _ => { writes := [(rd, 6)], reads := [(rs1, 6)], readsK := [k] }
  | .winsel1 _ ks | .winsel2 _ ks => { readsK := [ks] }
  | .precomp _ rs1 => { reads := [(rs1, 6)] }
  | .miller rd rs1 bank => { writes := [(rd, 12)], reads := [(rs1, 2)], readsCM := [bank] }
  | .miller2 rd rs1 rs2 => { writes := [(rd, 12)], reads := [(rs1, 2), (rs2, 2)], readsCM := [0, 1] }
  | .fexpe rd rs1 | .fexph rd rs1 | .fexp rd rs1 | .expz rd rs1 => { writes := [(rd, 12)], reads := [(rs1, 12)] }
  | .pair rd rs1 rs2 | .pairr rd rs1 rs2 => { writes := [(rd, 12)], reads := [(rs1, 3), (rs2, 6)] }

/-- The integer register a command writes (R20). -/
def writesK : Instr → Option KIdx
  | .ldk k _ | .ldki k _ => some k
  | .winsel1 kd _ | .winsel2 kd _ => some kd
  | .nop | .ldfe _ _ | .stfe _ _ | .ldraw _ _ | .straw _ _ | .stk _ _ | .mov _ _ _ | .zero _ _ | .one _
  | .mmul _ _ _ | .bmul _ _ _ | .tomont _ _ | .frommont _ _ | .fadd _ _ _ | .fsub _ _ _ | .fmul _ _ _
  | .fsqr _ _ | .fneg _ _ | .finv _ _ | .fpow _ _ _ | .fsqrt _ _ | .fisz _ | .feq _ _ | .flt _ _
  | .fissq _ | .fsign _ | .fbit _ _ | .ffrob _ _ _ | .f2add _ _ _ | .f2sub _ _ _ | .f2mul _ _ _
  | .f2sqr _ _ | .f2neg _ _ | .f2inv _ _ | .f2frob _ _ _ | .f2isz _ | .f2eq _ _ | .f3add _ _ _
  | .f3sub _ _ _ | .f3mul _ _ _ | .f3sqr _ _ | .f3neg _ _ | .f3inv _ _ | .f3frob _ _ _ | .f3isz _
  | .f3eq _ _ | .f6add _ _ _ | .f6sub _ _ _ | .f6mul _ _ _ | .f6sqr _ _ | .f6neg _ _ | .f6inv _ _
  | .f6frob _ _ _ | .f6isz _ | .f6eq _ _ | .f12add _ _ _ | .f12sub _ _ _ | .f12mul _ _ _ | .f12sqr _ _
  | .f12neg _ _ | .f12inv _ _ | .f12frob _ _ _ | .f12isz _ | .f12eq _ _ | .f12uinv _ _ | .f12csqr _ _
  | .f12cexp _ _ _ | .pdbl _ _ | .padd _ _ _ | .pmadd _ _ _ | .pneg _ _ | .paff _ _ | .pisid _
  | .peq _ _ | .piswf _ | .pzero _ | .pone _ | .psmul _ _ _ | .psmulw _ _ _ _ | .qdbl _ _ | .qadd _ _ _
  | .qmadd _ _ _ | .qneg _ _ | .qaff _ _ | .qisid _ | .qeq _ _ | .qiswf _ | .qzero _ | .qone _
  | .qsmul _ _ _ | .qsmulw _ _ _ _ | .precomp _ _ | .miller _ _ _ | .miller2 _ _ _ | .fexpe _ _
  | .fexph _ _ | .fexp _ _ | .expz _ _ | .pair _ _ _ | .pairr _ _ _ => none

/-- The bank a command writes (R20). -/
def writesCM : Instr → Option BankIdx
  | .precomp bank _ => some bank
  | .pair _ _ _ | .pairr _ _ _ => some 0
  | .nop | .ldfe _ _ | .stfe _ _ | .ldraw _ _ | .straw _ _ | .ldk _ _ | .stk _ _ | .ldki _ _
  | .mov _ _ _ | .zero _ _ | .one _ | .mmul _ _ _ | .bmul _ _ _ | .tomont _ _ | .frommont _ _
  | .fadd _ _ _ | .fsub _ _ _ | .fmul _ _ _ | .fsqr _ _ | .fneg _ _ | .finv _ _ | .fpow _ _ _
  | .fsqrt _ _ | .fisz _ | .feq _ _ | .flt _ _ | .fissq _ | .fsign _ | .fbit _ _ | .ffrob _ _ _
  | .f2add _ _ _ | .f2sub _ _ _ | .f2mul _ _ _ | .f2sqr _ _ | .f2neg _ _ | .f2inv _ _ | .f2frob _ _ _
  | .f2isz _ | .f2eq _ _ | .f3add _ _ _ | .f3sub _ _ _ | .f3mul _ _ _ | .f3sqr _ _ | .f3neg _ _
  | .f3inv _ _ | .f3frob _ _ _ | .f3isz _ | .f3eq _ _ | .f6add _ _ _ | .f6sub _ _ _ | .f6mul _ _ _
  | .f6sqr _ _ | .f6neg _ _ | .f6inv _ _ | .f6frob _ _ _ | .f6isz _ | .f6eq _ _ | .f12add _ _ _
  | .f12sub _ _ _ | .f12mul _ _ _ | .f12sqr _ _ | .f12neg _ _ | .f12inv _ _ | .f12frob _ _ _ | .f12isz _
  | .f12eq _ _ | .f12uinv _ _ | .f12csqr _ _ | .f12cexp _ _ _ | .pdbl _ _ | .padd _ _ _ | .pmadd _ _ _
  | .pneg _ _ | .paff _ _ | .pisid _ | .peq _ _ | .piswf _ | .pzero _ | .pone _ | .psmul _ _ _
  | .psmulw _ _ _ _ | .winsel1 _ _ | .qdbl _ _ | .qadd _ _ _ | .qmadd _ _ _ | .qneg _ _ | .qaff _ _
  | .qisid _ | .qeq _ _ | .qiswf _ | .qzero _ | .qone _ | .qsmul _ _ _ | .qsmulw _ _ _ _ | .winsel2 _ _
  | .miller _ _ _ | .miller2 _ _ _ | .fexpe _ _ | .fexph _ _ | .fexp _ _ | .expz _ _ => none

/-- The commands that write `T` (R28). -/
def writesT : Instr → Bool
  | .fisz _ | .feq _ _ | .flt _ _ | .fissq _ | .fsign _ | .fbit _ _ | .f2isz _ | .f2eq _ _ | .f3isz _
  | .f3eq _ _ | .f6isz _ | .f6eq _ _ | .f12isz _ | .f12eq _ _ | .pisid _ | .peq _ _ | .piswf _
  | .qisid _ | .qeq _ _ | .qiswf _ => true
  | .nop | .ldfe _ _ | .stfe _ _ | .ldraw _ _ | .straw _ _ | .ldk _ _ | .stk _ _ | .ldki _ _
  | .mov _ _ _ | .zero _ _ | .one _ | .mmul _ _ _ | .bmul _ _ _ | .tomont _ _ | .frommont _ _
  | .fadd _ _ _ | .fsub _ _ _ | .fmul _ _ _ | .fsqr _ _ | .fneg _ _ | .finv _ _ | .fpow _ _ _
  | .fsqrt _ _ | .ffrob _ _ _ | .f2add _ _ _ | .f2sub _ _ _ | .f2mul _ _ _ | .f2sqr _ _ | .f2neg _ _
  | .f2inv _ _ | .f2frob _ _ _ | .f3add _ _ _ | .f3sub _ _ _ | .f3mul _ _ _ | .f3sqr _ _ | .f3neg _ _
  | .f3inv _ _ | .f3frob _ _ _ | .f6add _ _ _ | .f6sub _ _ _ | .f6mul _ _ _ | .f6sqr _ _ | .f6neg _ _
  | .f6inv _ _ | .f6frob _ _ _ | .f12add _ _ _ | .f12sub _ _ _ | .f12mul _ _ _ | .f12sqr _ _
  | .f12neg _ _ | .f12inv _ _ | .f12frob _ _ _ | .f12uinv _ _ | .f12csqr _ _ | .f12cexp _ _ _
  | .pdbl _ _ | .padd _ _ _ | .pmadd _ _ _ | .pneg _ _ | .paff _ _ | .pzero _ | .pone _ | .psmul _ _ _
  | .psmulw _ _ _ _ | .winsel1 _ _ | .qdbl _ _ | .qadd _ _ _ | .qmadd _ _ _ | .qneg _ _ | .qaff _ _
  | .qzero _ | .qone _ | .qsmul _ _ _ | .qsmulw _ _ _ _ | .winsel2 _ _ | .precomp _ _ | .miller _ _ _
  | .miller2 _ _ _ | .fexpe _ _ | .fexph _ _ | .fexp _ _ | .expz _ _ | .pair _ _ _ | .pairr _ _ _ => false

/-- The bytes of XMEM a command transfers: the address and the count (R65), for the six load and store
commands. -/
def transfers (c : Config) : Instr → Option (Nat × Nat)
  | .ldfe _ addr | .ldraw _ addr | .stfe _ addr | .straw _ addr => some (addr.toNat, (c.modbits + 7) / 8)
  | .ldk _ addr | .stk _ addr => some (addr.toNat, 96)
  | .nop | .ldki _ _ | .mov _ _ _ | .zero _ _ | .one _ | .mmul _ _ _ | .bmul _ _ _ | .tomont _ _
  | .frommont _ _ | .fadd _ _ _ | .fsub _ _ _ | .fmul _ _ _ | .fsqr _ _ | .fneg _ _ | .finv _ _
  | .fpow _ _ _ | .fsqrt _ _ | .fisz _ | .feq _ _ | .flt _ _ | .fissq _ | .fsign _ | .fbit _ _
  | .ffrob _ _ _ | .f2add _ _ _ | .f2sub _ _ _ | .f2mul _ _ _ | .f2sqr _ _ | .f2neg _ _ | .f2inv _ _
  | .f2frob _ _ _ | .f2isz _ | .f2eq _ _ | .f3add _ _ _ | .f3sub _ _ _ | .f3mul _ _ _ | .f3sqr _ _
  | .f3neg _ _ | .f3inv _ _ | .f3frob _ _ _ | .f3isz _ | .f3eq _ _ | .f6add _ _ _ | .f6sub _ _ _
  | .f6mul _ _ _ | .f6sqr _ _ | .f6neg _ _ | .f6inv _ _ | .f6frob _ _ _ | .f6isz _ | .f6eq _ _
  | .f12add _ _ _ | .f12sub _ _ _ | .f12mul _ _ _ | .f12sqr _ _ | .f12neg _ _ | .f12inv _ _
  | .f12frob _ _ _ | .f12isz _ | .f12eq _ _ | .f12uinv _ _ | .f12csqr _ _ | .f12cexp _ _ _ | .pdbl _ _
  | .padd _ _ _ | .pmadd _ _ _ | .pneg _ _ | .paff _ _ | .pisid _ | .peq _ _ | .piswf _ | .pzero _
  | .pone _ | .psmul _ _ _ | .psmulw _ _ _ _ | .winsel1 _ _ | .qdbl _ _ | .qadd _ _ _ | .qmadd _ _ _
  | .qneg _ _ | .qaff _ _ | .qisid _ | .qeq _ _ | .qiswf _ | .qzero _ | .qone _ | .qsmul _ _ _
  | .qsmulw _ _ _ _ | .winsel2 _ _ | .precomp _ _ | .miller _ _ _ | .miller2 _ _ _ | .fexpe _ _
  | .fexph _ _ | .fexp _ _ | .expz _ _ | .pair _ _ _ | .pairr _ _ _ => none

/-- The commands that write XMEM (R20). -/
def writesX : Instr → Bool
  | .stfe _ _ | .straw _ _ | .stk _ _ => true
  | .nop | .ldfe _ _ | .ldraw _ _ | .ldk _ _ | .ldki _ _ | .mov _ _ _ | .zero _ _ | .one _ | .mmul _ _ _
  | .bmul _ _ _ | .tomont _ _ | .frommont _ _ | .fadd _ _ _ | .fsub _ _ _ | .fmul _ _ _ | .fsqr _ _
  | .fneg _ _ | .finv _ _ | .fpow _ _ _ | .fsqrt _ _ | .fisz _ | .feq _ _ | .flt _ _ | .fissq _
  | .fsign _ | .fbit _ _ | .ffrob _ _ _ | .f2add _ _ _ | .f2sub _ _ _ | .f2mul _ _ _ | .f2sqr _ _
  | .f2neg _ _ | .f2inv _ _ | .f2frob _ _ _ | .f2isz _ | .f2eq _ _ | .f3add _ _ _ | .f3sub _ _ _
  | .f3mul _ _ _ | .f3sqr _ _ | .f3neg _ _ | .f3inv _ _ | .f3frob _ _ _ | .f3isz _ | .f3eq _ _
  | .f6add _ _ _ | .f6sub _ _ _ | .f6mul _ _ _ | .f6sqr _ _ | .f6neg _ _ | .f6inv _ _ | .f6frob _ _ _
  | .f6isz _ | .f6eq _ _ | .f12add _ _ _ | .f12sub _ _ _ | .f12mul _ _ _ | .f12sqr _ _ | .f12neg _ _
  | .f12inv _ _ | .f12frob _ _ _ | .f12isz _ | .f12eq _ _ | .f12uinv _ _ | .f12csqr _ _ | .f12cexp _ _ _
  | .pdbl _ _ | .padd _ _ _ | .pmadd _ _ _ | .pneg _ _ | .paff _ _ | .pisid _ | .peq _ _ | .piswf _
  | .pzero _ | .pone _ | .psmul _ _ _ | .psmulw _ _ _ _ | .winsel1 _ _ | .qdbl _ _ | .qadd _ _ _
  | .qmadd _ _ _ | .qneg _ _ | .qaff _ _ | .qisid _ | .qeq _ _ | .qiswf _ | .qzero _ | .qone _
  | .qsmul _ _ _ | .qsmulw _ _ _ _ | .winsel2 _ _ | .precomp _ _ | .miller _ _ _ | .miller2 _ _ _
  | .fexpe _ _ | .fexph _ _ | .fexp _ _ | .expz _ _ | .pair _ _ _ | .pairr _ _ _ => false

/-- What MLSTATE becomes when a command completes without fault; nothing when it is left as it was
(R49). -/
def phaseAfter : Instr → Option MLState
  | .precomp _ _ => some .notStarted
  | .miller _ _ _ | .miller2 _ _ _ | .pair _ _ _ | .pairr _ _ _ => some .finished
  | .nop | .ldfe _ _ | .stfe _ _ | .ldraw _ _ | .straw _ _ | .ldk _ _ | .stk _ _ | .ldki _ _
  | .mov _ _ _ | .zero _ _ | .one _ | .mmul _ _ _ | .bmul _ _ _ | .tomont _ _ | .frommont _ _
  | .fadd _ _ _ | .fsub _ _ _ | .fmul _ _ _ | .fsqr _ _ | .fneg _ _ | .finv _ _ | .fpow _ _ _
  | .fsqrt _ _ | .fisz _ | .feq _ _ | .flt _ _ | .fissq _ | .fsign _ | .fbit _ _ | .ffrob _ _ _
  | .f2add _ _ _ | .f2sub _ _ _ | .f2mul _ _ _ | .f2sqr _ _ | .f2neg _ _ | .f2inv _ _ | .f2frob _ _ _
  | .f2isz _ | .f2eq _ _ | .f3add _ _ _ | .f3sub _ _ _ | .f3mul _ _ _ | .f3sqr _ _ | .f3neg _ _
  | .f3inv _ _ | .f3frob _ _ _ | .f3isz _ | .f3eq _ _ | .f6add _ _ _ | .f6sub _ _ _ | .f6mul _ _ _
  | .f6sqr _ _ | .f6neg _ _ | .f6inv _ _ | .f6frob _ _ _ | .f6isz _ | .f6eq _ _ | .f12add _ _ _
  | .f12sub _ _ _ | .f12mul _ _ _ | .f12sqr _ _ | .f12neg _ _ | .f12inv _ _ | .f12frob _ _ _ | .f12isz _
  | .f12eq _ _ | .f12uinv _ _ | .f12csqr _ _ | .f12cexp _ _ _ | .pdbl _ _ | .padd _ _ _ | .pmadd _ _ _
  | .pneg _ _ | .paff _ _ | .pisid _ | .peq _ _ | .piswf _ | .pzero _ | .pone _ | .psmul _ _ _
  | .psmulw _ _ _ _ | .winsel1 _ _ | .qdbl _ _ | .qadd _ _ _ | .qmadd _ _ _ | .qneg _ _ | .qaff _ _
  | .qisid _ | .qeq _ _ | .qiswf _ | .qzero _ | .qone _ | .qsmul _ _ _ | .qsmulw _ _ _ _ | .winsel2 _ _
  | .fexpe _ _ | .fexph _ _ | .fexp _ _ | .expz _ _ => none

/-- The `match` and the `mask` of the command's row in the opcode map (R94). -/
def opcodeRow : Instr → Word × Word
  | .nop => (0x00000000, 0xFFFFFFFF)
  | .ldfe _ _ => (0x01000000, 0xFF000000)
  | .stfe _ _ => (0x02000000, 0xFF000000)
  | .ldraw _ _ => (0x03000000, 0xFF000000)
  | .straw _ _ => (0x04000000, 0xFF000000)
  | .ldk _ _ => (0x05000000, 0xFFF00000)
  | .stk _ _ => (0x06000000, 0xFFF00000)
  | .ldki _ _ => (0x07000000, 0xFFF00000)
  | .mov _ _ _ => (0x08000000, 0xFF000007)
  | .zero _ _ => (0x09000000, 0xFF01FC07)
  | .one _ => (0x0A000000, 0xFF01FFFF)
  | .mmul _ _ _ => (0x10000000, 0xFF000007)
  | .bmul _ _ _ => (0x11000000, 0xFF000007)
  | .tomont _ _ => (0x12000000, 0xFF0003FF)
  | .frommont _ _ => (0x13000000, 0xFF0003FF)
  | .fadd _ _ _ => (0x20000000, 0xFF000007)
  | .fsub _ _ _ => (0x21000000, 0xFF000007)
  | .fmul _ _ _ => (0x22000000, 0xFF000007)
  | .fsqr _ _ => (0x23000000, 0xFF0003FF)
  | .fneg _ _ => (0x24000000, 0xFF0003FF)
  | .finv _ _ => (0x25000000, 0xFF0003FF)
  | .fpow _ _ _ => (0x26000000, 0xFF0003C7)
  | .fsqrt _ _ => (0x27000000, 0xFF0003FF)
  | .fisz _ => (0x28000000, 0xFFFE03FF)
  | .feq _ _ => (0x29000000, 0xFFFE0007)
  | .flt _ _ => (0x2A000000, 0xFFFE0007)
  | .fissq _ => (0x2B000000, 0xFFFE03FF)
  | .fsign _ => (0x2C000000, 0xFFFE03FF)
  | .fbit _ _ => (0x2D000000, 0xFFFE0000)
  | .ffrob _ _ _ => (0x2E000000, 0xFF000007)
  | .f2add _ _ _ => (0x30000000, 0xFF000007)
  | .f2sub _ _ _ => (0x31000000, 0xFF000007)
  | .f2mul _ _ _ => (0x32000000, 0xFF000007)
  | .f2sqr _ _ => (0x33000000, 0xFF0003FF)
  | .f2neg _ _ => (0x34000000, 0xFF0003FF)
  | .f2inv _ _ => (0x35000000, 0xFF0003FF)
  | .f2frob _ _ _ => (0x36000000, 0xFF000007)
  | .f2isz _ => (0x37000000, 0xFFFE03FF)
  | .f2eq _ _ => (0x38000000, 0xFFFE0007)
  | .f3add _ _ _ => (0x40000000, 0xFF000007)
  | .f3sub _ _ _ => (0x41000000, 0xFF000007)
  | .f3mul _ _ _ => (0x42000000, 0xFF000007)
  | .f3sqr _ _ => (0x43000000, 0xFF0003FF)
  | .f3neg _ _ => (0x44000000, 0xFF0003FF)
  | .f3inv _ _ => (0x45000000, 0xFF0003FF)
  | .f3frob _ _ _ => (0x46000000, 0xFF000007)
  | .f3isz _ => (0x47000000, 0xFFFE03FF)
  | .f3eq _ _ => (0x48000000, 0xFFFE0007)
  | .f6add _ _ _ => (0x50000000, 0xFF000007)
  | .f6sub _ _ _ => (0x51000000, 0xFF000007)
  | .f6mul _ _ _ => (0x52000000, 0xFF000007)
  | .f6sqr _ _ => (0x53000000, 0xFF0003FF)
  | .f6neg _ _ => (0x54000000, 0xFF0003FF)
  | .f6inv _ _ => (0x55000000, 0xFF0003FF)
  | .f6frob _ _ _ => (0x56000000, 0xFF000007)
  | .f6isz _ => (0x57000000, 0xFFFE03FF)
  | .f6eq _ _ => (0x58000000, 0xFFFE0007)
  | .f12add _ _ _ => (0x60000000, 0xFF000007)
  | .f12sub _ _ _ => (0x61000000, 0xFF000007)
  | .f12mul _ _ _ => (0x62000000, 0xFF000007)
  | .f12sqr _ _ => (0x63000000, 0xFF0003FF)
  | .f12neg _ _ => (0x64000000, 0xFF0003FF)
  | .f12inv _ _ => (0x65000000, 0xFF0003FF)
  | .f12frob _ _ _ => (0x66000000, 0xFF000007)
  | .f12isz _ => (0x67000000, 0xFFFE03FF)
  | .f12eq _ _ => (0x68000000, 0xFFFE0007)
  | .f12uinv _ _ => (0x69000000, 0xFF0003FF)
  | .f12csqr _ _ => (0x6A000000, 0xFF0003FF)
  | .f12cexp _ _ _ => (0x6B000000, 0xFF0003C7)
  | .pdbl _ _ => (0x70000000, 0xFF0003FF)
  | .padd _ _ _ => (0x71000000, 0xFF000007)
  | .pmadd _ _ _ => (0x72000000, 0xFF000007)
  | .pneg _ _ => (0x73000000, 0xFF0003FF)
  | .paff _ _ => (0x74000000, 0xFF0003FF)
  | .pisid _ => (0x75000000, 0xFFFE03FF)
  | .peq _ _ => (0x76000000, 0xFFFE0007)
  | .piswf _ => (0x77000000, 0xFFFE03FF)
  | .pzero _ => (0x78000000, 0xFF01FFFF)
  | .pone _ => (0x79000000, 0xFF01FFFF)
  | .psmul _ _ _ => (0x7A000000, 0xFF0003C7)
  | .psmulw _ _ _ _ => (0x7B000000, 0xFF0003C0)
  | .winsel1 _ _ => (0x7C000000, 0xFFF1E3FF)
  | .qdbl _ _ => (0x80000000, 0xFF0003FF)
  | .qadd _ _ _ => (0x81000000, 0xFF000007)
  | .qmadd _ _ _ => (0x82000000, 0xFF000007)
  | .qneg _ _ => (0x83000000, 0xFF0003FF)
  | .qaff _ _ => (0x84000000, 0xFF0003FF)
  | .qisid _ => (0x85000000, 0xFFFE03FF)
  | .qeq _ _ => (0x86000000, 0xFFFE0007)
  | .qiswf _ => (0x87000000, 0xFFFE03FF)
  | .qzero _ => (0x88000000, 0xFF01FFFF)
  | .qone _ => (0x89000000, 0xFF01FFFF)
  | .qsmul _ _ _ => (0x8A000000, 0xFF0003C7)
  | .qsmulw _ _ _ _ => (0x8B000000, 0xFF0003C0)
  | .winsel2 _ _ => (0x8C000000, 0xFFF1E3FF)
  | .precomp _ _ => (0x90000000, 0xFFFE03FE)
  | .miller _ _ _ => (0x91000000, 0xFF0003FE)
  | .miller2 _ _ _ => (0x92000000, 0xFF000007)
  | .fexpe _ _ => (0x93000000, 0xFF0003FF)
  | .fexph _ _ => (0x94000000, 0xFF0003FF)
  | .fexp _ _ => (0x95000000, 0xFF0003FF)
  | .expz _ _ => (0x96000000, 0xFF0003FF)
  | .pair _ _ _ => (0x97000000, 0xFF000007)
  | .pairr _ _ _ => (0x98000000, 0xFF000007)

/-- Every cell operand fits (R15, R92 step 3). -/
def SpansFit (i : Instr) : Prop :=
  ∀ sp ∈ (operands i).writes ++ (operands i).reads, sp.1.toNat + sp.2 ≤ 128

/-- Every source of the command is valid (R23, R92 step 4). -/
def SourcesValid (s : State) (i : Instr) : Prop :=
  (∀ sp ∈ (operands i).reads, ∀ j < sp.2, cellValid s (sp.1.toNat + j) = true) ∧
  (∀ r ∈ (operands i).readsK, kValid s r = true) ∧ (∀ b ∈ (operands i).readsCM, bankValid s b = true)

end Sys2Proof.Spec
end

