-- ==== Sys2Proof/Certificates/Slice0/Obligations.lean ====
section
/-! DEFINITION. The statements for the provers. Each is a closed proposition about the machine; the words they
use are in Safety.lean (frames, invariants), Safety/Table.lean (the operand table) and Safety/Rings.lean (the
towers as quotient rings and the formulas in ring notation). -/

open Sys2Proof Sys2Proof.Machine

/-! ## The command word (R90 to R96) -/

/-- R91, R93, R94: every command is what its word decodes to, with every operand at every value. -/
def Obligations.DecodeOfEncode : Prop :=
  ∀ i : Instr, i.wf = true → decode (encode i) = .ok i

/-- R91, R93: a word that decodes is the word of its command; no bit of a legal word is dropped. -/
def Obligations.EncodeOfDecode : Prop :=
  ∀ (w : Word) (i : Instr), decode w = .ok i → encode i = w ∧ i.wf = true

/-- R91: a word is an instance of a row exactly when `(w and mask) = match`, plus, for MOV and ZERO,
`cnt ≠ 0`. The row is that of any command `j`. -/
def Obligations.LegalWords : Prop :=
  ∀ (w : Word) (j : Instr),
    (∃ i, decode w = .ok i ∧ Spec.opcodeRow i = Spec.opcodeRow j) ↔
      (w &&& (Spec.opcodeRow j).2 = (Spec.opcodeRow j).1 ∧
        ((Spec.opcodeRow j).1 = 0x08000000 ∨ (Spec.opcodeRow j).1 = 0x09000000 →
          w.extractLsb' 3 7 ≠ 0))

/-- R100: the worked encodings, and the words it calls illegal. -/
def Obligations.WorkedEncodings : Prop :=
  (decode 0x00000000 = .ok .nop ∧ decode 0x01020040 = .ok (.ldfe 1 0x40) ∧
   decode 0x020C0000 = .ok (.stfe 6 0) ∧ decode 0x07000005 = .ok (.ldki 0 5) ∧
   decode 0x083C5010 = .ok (.mov 30 20 2) ∧ decode 0x20140410 = .ok (.fadd 10 1 2) ∧
   decode 0x23140800 = .ok (.fsqr 10 2) ∧ decode 0x26140408 = .ok (.fpow 10 1 1) ∧
   decode 0x2D000784 = .ok (.fbit 1 900) ∧ decode 0x36140018 = .ok (.f2frob 10 0 3) ∧
   decode 0x62500060 = .ok (.f12mul 40 0 12) ∧ decode 0x7B120003 = .ok (.psmulw 9 0 0 3) ∧
   decode 0x7C040400 = .ok (.winsel1 2 1) ∧ decode 0x90007801 = .ok (.precomp 1 30) ∧
   decode 0x91280000 = .ok (.miller 20 0 0) ∧ decode 0x98C80050 = .ok (.pairr 100 0 10)) ∧
  (∀ w ∈ ([0xFF000000, 0x0B000000, 0x00020000, 0x20020819, 0x23020808, 0x26020840, 0x05100000,
      0x08020800, 0x90002802] : List Word), ∀ i, decode w ≠ .ok i)

/-! ## Steps -/

/-- R92: while BUSY the sequencer's step executes the command the accepted word decodes to; the step is next
when no transfer is to come, or when the schedule says so. R92, R411: with BUSY = 0 the sequencer is idle: its
step changes nothing. -/
def Obligations.StepRunsDecoded : Prop :=
  ∀ s : State, s.cfg.wfCheck = true →
    (∀ i : Instr, s.busy = true → decode s.pend = .ok i →
      (s.inputs = [] → step s = exec i s) ∧
      (∀ es, s.inputs = .sequencer :: es → step s = exec i { s with inputs := es })) ∧
    (s.busy = false →
      (s.inputs = [] → step s = .next s) ∧
      (∀ es, s.inputs = .sequencer :: es → step s = .next { s with inputs := es }))

/-- R93, R373, R385: a word that is no command raises ILLEGAL, code 1, and changes nothing else, whatever is
to come after the step. -/
def Obligations.IllegalWordFaults : Prop :=
  ∀ s : State, s.cfg.wfCheck = true → s.busy = true → (∀ i, decode s.pend ≠ .ok i) →
    (s.inputs = [] → step s = .next (faulted s 1)) ∧
    (∀ es, s.inputs = .sequencer :: es → step s = .next (faulted { s with inputs := es } 1))

/-- R45: a CMD write to an idle core that is not in the fault state accepts the word, legal or not, whatever is
to come after it (that the phase is looked up by the opcode alone is assumption 16); when the word decodes, the
sequencer's next step executes the command. -/
def Obligations.AcceptedCommandRuns : Prop :=
  ∀ (s : State) (w : Word) (es : List Event),
    s.cfg.wfCheck = true → s.busy = false → s.fault = false → s.inputs = .hostWrite 4 w :: es →
    ∃ u, u = { s with
        pend := w, busy := true, done := false, mlPrev := s.mlstate, inputs := es
        mlstate := if w.extractLsb' 24 8 ∈ ([0x91, 0x92, 0x97, 0x98] : List (BitVec 8)) then
          .accumulating else s.mlstate } ∧
      step s = .next u ∧
      ∀ i : Instr, decode w = .ok i →
        (es = [] → step u = exec i u) ∧
        (∀ es', es = .sequencer :: es' → step u = exec i { u with inputs := es' })

/-- R8, U17: with a well-formed configuration every step answers a next state: nothing is refused and nothing
stops. R9, U1: with any other configuration, a composite `P` among them, the model refuses. -/
def Obligations.StepAlwaysAnswers : Prop :=
  ∀ s : State, (s.cfg.WF → ∃ t, step s = .next t) ∧
    (¬s.cfg.WF → step s = .refused .configNotWellFormed)

/-! ## Invariants (R51) -/

/-- R51 (I1, I3 to I6), R43, R60: every step keeps the invariant. -/
def Obligations.StepKeepsInvariant : Prop :=
  ∀ s t : State, Inv s → step s = .next t → Inv t

/-- R411: what both resets leave of everything but XMEM (and the words on the port). -/
def Spec.IsReset (s t : State) : Prop :=
  (∀ i < 128, cellValid t i = false) ∧ (∀ r, kValid t r = false) ∧ (∀ b, bankValid t b = false) ∧
  t.t = false ∧ t.mlstate = .notStarted ∧ t.ctrl = 0 ∧ t.busy = false ∧ t.done = false ∧
  t.fault = false ∧ t.hosterr = false ∧ t.fcode = 0 ∧ t.fcmd = 0 ∧ t.cfg = s.cfg ∧ irq t = false

/-- R51, R411: after reset, in every configuration, all is as R411 says and the invariant holds. That the
model's own reset state has the configuration TOY-BN, which is well formed, is a choice of the model
(assumption 2). -/
def Obligations.InvariantAtReset : Prop :=
  (∀ c : Config, Spec.IsReset (State.resetOf c) (State.resetOf c) ∧ (State.resetOf c).cfg = c ∧
    Inv (State.resetOf c)) ∧
  State.reset = State.resetOf toyBN ∧ State.reset.cfg.WF

/-- R51 (I7), R7: no step changes the configuration. -/
def Obligations.ConfigNeverChanges : Prop :=
  ∀ s t : State, step s = .next t → t.cfg = s.cfg

/-! ## Every command: checks, faults, frame -/

/-- R92, R372: the checks before a command's own rule, in order: UNSUPP (2), REGRANGE (3), UNINIT (4). -/
def Obligations.CheckOrder : Prop :=
  ∀ (s : State) (i : Instr),
    (Spec.present s.cfg i = false → exec i s = .next (faulted s 2)) ∧
    (Spec.present s.cfg i = true → ¬Spec.SpansFit i → exec i s = .next (faulted s 3)) ∧
    (Spec.present s.cfg i = true → Spec.SpansFit i → ¬Spec.SourcesValid s i →
      exec i s = .next (faulted s 4))

/-- R68, R385, R20: every command either faults, with a code from 2 to 9 and no write, or completes, and
then writes at most the cells, the register, the bank, the flag, the bytes and the phase that the operand
table gives it. -/
def Obligations.EveryCommand : Prop :=
  ∀ (s : State) (i : Instr), ∃ t, exec i s = .next t ∧
    ((∃ code : BitVec 4, 2 ≤ code.toNat ∧ code.toNat ≤ 9 ∧ t = faulted s code) ∨
     (Completed s t ∧
      (∀ j < 128, (∀ sp ∈ (Spec.operands i).writes, ¬(sp.1.toNat ≤ j ∧ j < sp.1.toNat + sp.2)) →
        rawCell t j = rawCell s j ∧ cellValid t j = cellValid s j) ∧
      (∀ sp ∈ (Spec.operands i).writes, ∀ j < sp.2, cellValid t (sp.1.toNat + j) = true) ∧
      (∀ r, Spec.writesK i ≠ some r → kReg t r = kReg s r ∧ kValid t r = kValid s r) ∧
      (∀ r, Spec.writesK i = some r → kValid t r = true) ∧
      (∀ b, Spec.writesCM i ≠ some b → bank t b = bank s b ∧ bankValid t b = bankValid s b) ∧
      (∀ b, Spec.writesCM i = some b → bankValid t b = true) ∧
      (Spec.writesT i = false → t.t = s.t) ∧
      (t.mlstate = (Spec.phaseAfter i).getD s.mlstate) ∧
      (∀ a, (∀ x, Spec.writesX i = true → Spec.transfers s.cfg i = some x → ¬(x.1 ≤ a ∧ a < x.1 + x.2)) →
        memRead t.xmem a = memRead s.xmem a)))

/-- R28: the commands that write `T` are exactly the twenty test commands: each of them can change `T`, every
other command leaves it unchanged, and so does a faulting test command. -/
def Obligations.TestFlagWriters : Prop :=
  (∀ i : Instr, Spec.writesT i = true → Spec.SpansFit i → ∃ s t : State, exec i s = .next t ∧ t.t ≠ s.t) ∧
  (∀ (s t : State) (i : Instr), exec i s = .next t → Spec.writesT i = false → t.t = s.t) ∧
  (∀ (s t : State) (i : Instr), exec i s = .next t → s.fault = false → t.fault = true → t.t = s.t)

/-- R372: the fault reported on TOY-BN and TOY-BN-2over3 straight after reset for the worked words. -/
def Obligations.WorkedFaultPriority : Prop :=
  (∀ x ∈ ([(0x25FE0001, 1), (0x35FE0000, 3), (0x25FE0000, 4), (0x02000FFF, 4), (0x01001000, 5)] :
      List (Nat × BitVec 4)),
    (nextOf (step ((State.resetOf toyBN).withFetchWord 32 x.1))).map (fun t => (t.fault, t.fcode)) =
      some (true, x.2)) ∧
  (∀ x ∈ ([(0x90000002, 1), (0x91F00000, 2)] : List (Nat × BitVec 4)),
    (nextOf (step ((State.resetOf toyBN2over3).withFetchWord 32 x.1))).map (fun t => (t.fault, t.fcode)) =
      some (true, x.2))

/-! ## The host port (R40 to R53, R66, R386, R410 to R412) -/

/-- R41 to R48, R52, R66: what a `HostRead` returns at every offset; it has no other effect. -/
def Obligations.HostReads : Prop :=
  ∀ (s : State) (h : BitVec 11) (es : List Event), s.cfg.wfCheck = true → s.inputs = .hostRead h :: es →
    ∃ d : Word, step s = .next { s with inputs := es, hrdata := d } ∧
      (h = 0 → d = 0x4D530009) ∧
      (h = 1 → (d.extractLsb' 0 10).toNat = s.cfg.modbits ∧ d.getLsbD 10 = decide (s.cfg.redmode = .mont) ∧
        d.getLsbD 11 = s.cfg.hasFp2 ∧ d.getLsbD 12 = s.cfg.hasFp3 ∧
        (s.cfg.f6 = .none → d.extractLsb' 13 2 = 0) ∧ (∀ n, s.cfg.f6 = .over2 n → d.extractLsb' 13 2 = 1) ∧
        (∀ n, s.cfg.f6 = .over3 n → d.extractLsb' 13 2 = 2) ∧
        d.getLsbD 15 = s.cfg.hasFp12 ∧ d.getLsbD 16 = s.cfg.hasG2 ∧ d.getLsbD 17 = s.cfg.hasPair ∧
        d.getLsbD 18 = s.cfg.loopneg ∧ d.getLsbD 19 = s.cfg.zneg ∧
        d.getLsbD 20 = decide (s.cfg.curveA = 0) ∧ d.extractLsb' 21 11 = 0) ∧
      (h = 2 → d = s.ctrl) ∧
      (h = 3 → d.getLsbD 0 = s.busy ∧ d.getLsbD 1 = s.done ∧ d.getLsbD 2 = s.fault ∧ d.getLsbD 3 = s.t ∧
        d.getLsbD 4 = s.hosterr ∧ (s.mlstate = .notStarted → d.extractLsb' 5 2 = 0) ∧
        (s.mlstate = .accumulating → d.extractLsb' 5 2 = 1) ∧
        (s.mlstate = .finished → d.extractLsb' 5 2 = 2) ∧
        d.getLsbD 7 = bankValid s 0 ∧ d.getLsbD 8 = bankValid s 1 ∧ d.extractLsb' 9 23 = 0) ∧
      (h = 4 → d = 0) ∧ (h = 5 → d.extractLsb' 0 4 = s.fcode ∧ d.extractLsb' 4 28 = 0) ∧
      (h = 6 → d = s.fcmd) ∧ (7 ≤ h.toNat → h.toNat < 1024 → d = 0) ∧
      (1024 ≤ h.toNat → d.toNat = (memRead s.xmem (4 * (h.toNat - 1024))).toNat +
        256 * (memRead s.xmem (4 * (h.toNat - 1024) + 1)).toNat +
        65536 * (memRead s.xmem (4 * (h.toNat - 1024) + 2)).toNat +
        16777216 * (memRead s.xmem (4 * (h.toNat - 1024) + 3)).toNat)

/-- R43, R44, R45, R386: writes to CTRL (without bit 31), STATUS and CMD, accepted and ignored; an ignored
one sets HOSTERR and nothing else. R41, R42, R46, R47, R52, R391: a write to a read-only register changes
nothing, but while BUSY it sets HOSTERR. R48: a write to a reserved offset changes nothing; that this holds while
BUSY too is the model's reading (assumption 11). -/
def Obligations.HostRegisterWrites : Prop :=
  ∀ (s : State) (w : Word) (es : List Event), s.cfg.wfCheck = true →
    (s.inputs = .hostWrite 2 w :: es → w.getLsbD 31 = false →
      (s.busy = true → step s = .next { s with inputs := es, hosterr := true }) ∧
      (s.busy = false → ∃ c : Word, step s = .next { s with inputs := es, ctrl := c } ∧
        ∀ i < 32, c.getLsbD i = (decide (i < 3) && w.getLsbD i))) ∧
    (s.inputs = .hostWrite 3 w :: es →
      (s.busy = true → step s = .next { s with inputs := es, hosterr := true }) ∧
      (s.busy = false → step s = .next { s with
        inputs := es, done := s.done && !w.getLsbD 1, hosterr := s.hosterr && !w.getLsbD 4 })) ∧
    (s.inputs = .hostWrite 4 w :: es → (s.busy = true ∨ s.fault = true) →
      step s = .next { s with inputs := es, hosterr := true }) ∧
    (∀ h ∈ ([0, 1, 5, 6] : List (BitVec 11)), s.inputs = .hostWrite h w :: es →
      (s.busy = true → step s = .next { s with inputs := es, hosterr := true }) ∧
      (s.busy = false → step s = .next { s with inputs := es })) ∧
    (∀ h : BitVec 11, 7 ≤ h.toNat → h.toNat < 1024 →
      s.inputs = .hostWrite h w :: es → step s = .next { s with inputs := es })

/-- R66, R386: a write to the XMEM window stores its four bytes, lane 0 at the lowest address whatever ENDIAN
is, also while `FAULT = 1`; while BUSY it is ignored and sets HOSTERR. -/
def Obligations.WindowWrites : Prop :=
  ∀ (s : State) (h : BitVec 11) (w : Word) (es : List Event), s.cfg.wfCheck = true →
    memWf s.xmem = true → 1024 ≤ h.toNat → s.inputs = .hostWrite h w :: es →
    (s.busy = true → step s = .next { s with inputs := es, hosterr := true }) ∧
    (s.busy = false → ∃ m, step s = .next { s with inputs := es, xmem := m } ∧
      (∀ i < 4, memRead m (4 * (h.toNat - 1024) + i) = w.extractLsb' (8 * i) 8) ∧
      (∀ a, ¬(4 * (h.toNat - 1024) ≤ a ∧ a < 4 * (h.toNat - 1024) + 4) →
        memRead m a = memRead s.xmem a))

/-- R412, R53: a CTRL write with bit 31 set resets everything but XMEM, at any time; a running command is
abandoned with no write. -/
def Obligations.SoftReset : Prop :=
  ∀ (s : State) (w : Word) (es : List Event), s.cfg.wfCheck = true →
    s.inputs = .hostWrite 2 w :: es → w.getLsbD 31 = true →
    ∃ t, step s = .next t ∧ Spec.IsReset s t ∧ t.xmem = s.xmem ∧ t.inputs = es

/-- R411, R413, R72: after every hard reset, at any time, all but XMEM is as R411 says and XMEM is in its
canonical form; and XMEM may hold any bytes whatever: for every content there is an event that leaves it. -/
def Obligations.HardReset : Prop :=
  (∀ (s : State) (cells : List Host.Cell) (es : List Event), s.cfg.wfCheck = true →
    s.inputs = .hardReset cells :: es →
    ∃ t, step s = .next t ∧ Spec.IsReset s t ∧ memWf t.xmem = true ∧ t.inputs = es) ∧
  (∀ g : Nat → Byte, ∃ cells : List Host.Cell, ∀ (s : State) (es : List Event), s.cfg.wfCheck = true →
    s.inputs = .hardReset cells :: es →
    ∃ t, step s = .next t ∧ ∀ a < 4096, memRead t.xmem a = g a)

/-- R386, R387: the fault state is left by a reset only; until then FCODE and FCMD describe the first fault
and no command is accepted. -/
def Obligations.FaultIsSticky : Prop :=
  ∀ s t : State, Inv s → s.fault = true → step s = .next t →
    (∀ cells es, s.inputs ≠ .hardReset cells :: es) →
    (∀ w es, s.inputs = .hostWrite 2 w :: es → w.getLsbD 31 = false) →
    t.fault = true ∧ t.fcode = s.fcode ∧ t.fcmd = s.fcmd ∧ t.busy = false ∧
    (∀ i < 128, rawCell t i = rawCell s i ∧ cellValid t i = cellValid s i) ∧ SameK s t ∧ SameBanks s t

/-- R50: `irq = (DONE and CTRL.IE_DONE) or (FAULT and CTRL.IE_FAULT)`, a level. -/
def Obligations.InterruptLevel : Prop :=
  ∀ s : State, irq s = true ↔
    (s.done = true ∧ s.ctrl.getLsbD 0 = true) ∨ (s.fault = true ∧ s.ctrl.getLsbD 1 = true)

/-! ## Representation, bytes, reduction units -/

/-- R12: `val` and `rep` are the identity with BARRETT; with MONT `val(x) * R = x` and `rep(x) = x * R` modulo
`p`; both are bijections of `[0, p)`, inverse to each other. -/
def Obligations.RepresentationBijective : Prop :=
  ∀ c : Config, c.WF → ∀ x < c.p,
    val c x < c.p ∧ rep c x < c.p ∧ val c (rep c x) = x ∧ rep c (val c x) = x ∧
    (c.redmode = .barrett → val c x = x ∧ rep c x = x) ∧
    (c.redmode = .mont → val c x * 2 ^ c.rbits % c.p = x ∧ rep c x = x * 2 ^ c.rbits % c.p)

/-- R141: the reduction REDC meets the Montgomery unit's contract, with `PINV * p = 1` modulo `R`. -/
def Obligations.MontgomeryReduction : Prop :=
  ∀ c : Config, c.WF → montPInv c * c.p % montR c = 1 ∧
    ∀ t < c.p * montR c, redc c t < c.p ∧ redc c t * montR c % c.p = t % c.p

/-- R142: the Barrett reduction gives the residue, with at most two corrective subtractions. -/
def Obligations.BarrettReduction : Prop :=
  ∀ c : Config, c.WF → ∀ x < c.p ^ 2, barrettReduce c x = x % c.p

/-! ## Data movement (R121 to R131) -/

/-- R122, R124, R62, R64, R67: LDFE and LDRAW read `FEBYTES` bytes; XADDR (5) past the end of XMEM, RANGE (6)
from `p` on; else the cell's canonical value (LDFE) or raw content (LDRAW) is the integer read. -/
def Obligations.LoadElement : Prop :=
  ∀ (s : State) (f : CellIdx) (addr : XAddr), s.cfg.WF →
    (4096 < addr.toNat + (s.cfg.modbits + 7) / 8 →
      exec (.ldfe f addr) s = .next (faulted s 5) ∧ exec (.ldraw f addr) s = .next (faulted s 5)) ∧
    (addr.toNat + (s.cfg.modbits + 7) / 8 ≤ 4096 →
      (s.cfg.p ≤ bytesValue s addr.toNat ((s.cfg.modbits + 7) / 8) →
        exec (.ldfe f addr) s = .next (faulted s 6) ∧ exec (.ldraw f addr) s = .next (faulted s 6)) ∧
      (bytesValue s addr.toNat ((s.cfg.modbits + 7) / 8) < s.cfg.p →
        (∃ t, exec (.ldfe f addr) s = .next t ∧ OnlyCells s t f 1 ∧
          canon t f.toNat = bytesValue s addr.toNat ((s.cfg.modbits + 7) / 8)) ∧
        (∃ t, exec (.ldraw f addr) s = .next t ∧ OnlyCells s t f 1 ∧
          rawCell t f.toNat = bytesValue s addr.toNat ((s.cfg.modbits + 7) / 8))))

/-- R123, R125, R62, R64: STFE and STRAW write `FEBYTES` bytes that read back as the canonical value (STFE) or
the raw content (STRAW); XADDR (5) past the end of XMEM. -/
def Obligations.StoreElement : Prop :=
  ∀ (s : State) (f : CellIdx) (addr : XAddr), Sound s → memWf s.xmem = true → Source s f 1 →
    (4096 < addr.toNat + (s.cfg.modbits + 7) / 8 →
      exec (.stfe f addr) s = .next (faulted s 5) ∧ exec (.straw f addr) s = .next (faulted s 5)) ∧
    (addr.toNat + (s.cfg.modbits + 7) / 8 ≤ 4096 →
      (∃ t, exec (.stfe f addr) s = .next t ∧ OnlyMem s t addr.toNat ((s.cfg.modbits + 7) / 8) ∧
        bytesValue t addr.toNat ((s.cfg.modbits + 7) / 8) = canon s f.toNat) ∧
      (∃ t, exec (.straw f addr) s = .next t ∧ OnlyMem s t addr.toNat ((s.cfg.modbits + 7) / 8) ∧
        bytesValue t addr.toNat ((s.cfg.modbits + 7) / 8) = rawCell s f.toNat))

/-- R126, R127, R128: LDK, STK and LDKI. -/
def Obligations.IntegerRegisters : Prop :=
  ∀ (s : State) (k : KIdx) (addr : XAddr), memWf s.xmem = true →
    (4096 < addr.toNat + 96 → exec (.ldk k addr) s = .next (faulted s 5)) ∧
    (addr.toNat + 96 ≤ 4096 → ∃ t, exec (.ldk k addr) s = .next t ∧ OnlyK s t k ∧
      kReg t k = bytesValue s addr.toNat 96) ∧
    (kValid s k = true → 4096 < addr.toNat + 96 → exec (.stk k addr) s = .next (faulted s 5)) ∧
    (kValid s k = true → addr.toNat + 96 ≤ 4096 → ∃ t, exec (.stk k addr) s = .next t ∧
      OnlyMem s t addr.toNat 96 ∧ bytesValue t addr.toNat 96 = kReg s k) ∧
    (∃ t, exec (.ldki k addr) s = .next t ∧ OnlyK s t k ∧ kReg t k = addr.toNat)

/-- R121, R129, R130, R131, R16: NOP completes and writes nothing; MOV copies raw contents as they were
before the command, whatever the overlap; ZERO writes zeros; ONE writes the value one. -/
def Obligations.NopMoveZeroOne : Prop :=
  (∀ s : State, ∃ t, exec .nop s = .next t ∧ OnlyCompletes s t) ∧
  ∀ (s : State) (rd rs1 : CellIdx) (cnt : BitVec 7), Sound s → cnt ≠ 0 →
    (Dest rd cnt.toNat → Source s rs1 cnt.toNat →
      ∃ t, exec (.mov rd rs1 cnt) s = .next t ∧ OnlyCells s t rd cnt.toNat ∧
        ∀ i < cnt.toNat, rawCell t (rd.toNat + i) = rawCell s (rs1.toNat + i)) ∧
    (Dest rd cnt.toNat →
      ∃ t, exec (.zero rd cnt) s = .next t ∧ OnlyCells s t rd cnt.toNat ∧
        ∀ i < cnt.toNat, rawCell t (rd.toNat + i) = 0) ∧
    (∃ t, exec (.one rd) s = .next t ∧ OnlyCells s t rd 1 ∧ canon t rd.toNat = 1)

/-! ## Reduction units and the base field (R144 to R162) -/

/-- R144 to R147: the units work on raw content: MMUL gives the residue `z` with `z * R = x * y`, BMUL
`x * y`, TOMONT `x * R`, FROMMONT the residue `z` with `z * R = x`, all modulo `p`. -/
def Obligations.ReductionUnits : Prop :=
  ∀ (s : State) (rd rs1 rs2 : CellIdx), Sound s → Source s rs1 1 →
    (Source s rs2 1 →
      (∃ t, exec (.mmul rd rs1 rs2) s = .next t ∧ OnlyCells s t rd 1 ∧
        rawCell t rd.toNat * 2 ^ s.cfg.rbits % s.cfg.p =
          rawCell s rs1.toNat * rawCell s rs2.toNat % s.cfg.p) ∧
      (∃ t, exec (.bmul rd rs1 rs2) s = .next t ∧ OnlyCells s t rd 1 ∧
        rawCell t rd.toNat = rawCell s rs1.toNat * rawCell s rs2.toNat % s.cfg.p)) ∧
    (∃ t, exec (.tomont rd rs1) s = .next t ∧ OnlyCells s t rd 1 ∧
      rawCell t rd.toNat = rawCell s rs1.toNat * 2 ^ s.cfg.rbits % s.cfg.p) ∧
    (∃ t, exec (.frommont rd rs1) s = .next t ∧ OnlyCells s t rd 1 ∧
      rawCell t rd.toNat * 2 ^ s.cfg.rbits % s.cfg.p = rawCell s rs1.toNat)

/-- R148 to R152, R162: the sum, difference, product, square and negative modulo `p` of the canonical values,
in both values of REDMODE; FFROB copies the cell, whatever the power. -/
def Obligations.FieldArithmetic : Prop :=
  ∀ (s : State) (rd rs1 rs2 : CellIdx), Sound s → Source s rs1 1 →
    (Source s rs2 1 →
      (∃ t, exec (.fadd rd rs1 rs2) s = .next t ∧ OnlyCells s t rd 1 ∧
        canon t rd.toNat = (canon s rs1.toNat + canon s rs2.toNat) % s.cfg.p) ∧
      (∃ t, exec (.fsub rd rs1 rs2) s = .next t ∧ OnlyCells s t rd 1 ∧
        (canon t rd.toNat + canon s rs2.toNat) % s.cfg.p = canon s rs1.toNat) ∧
      (∃ t, exec (.fmul rd rs1 rs2) s = .next t ∧ OnlyCells s t rd 1 ∧
        canon t rd.toNat = canon s rs1.toNat * canon s rs2.toNat % s.cfg.p)) ∧
    (∃ t, exec (.fsqr rd rs1) s = .next t ∧ OnlyCells s t rd 1 ∧
      canon t rd.toNat = canon s rs1.toNat ^ 2 % s.cfg.p) ∧
    (∃ t, exec (.fneg rd rs1) s = .next t ∧ OnlyCells s t rd 1 ∧
      canon t rd.toNat = (s.cfg.p - canon s rs1.toNat) % s.cfg.p) ∧
    (∀ pow, ∃ t, exec (.ffrob rd rs1 pow) s = .next t ∧ OnlyCells s t rd 1 ∧
      rawCell t rd.toNat = rawCell s rs1.toNat)

/-- R153, R143: FINV gives the inverse, and INVZERO (7) on zero. -/
def Obligations.FieldInverse : Prop :=
  ∀ (s : State) (rd rs1 : CellIdx), Sound s → Source s rs1 1 →
    (canon s rs1.toNat = 0 → exec (.finv rd rs1) s = .next (faulted s 7)) ∧
    (canon s rs1.toNat ≠ 0 → ∃ t, exec (.finv rd rs1) s = .next t ∧ OnlyCells s t rd 1 ∧
      canon s rs1.toNat * canon t rd.toNat % s.cfg.p = 1)

/-- R154: FPOW gives `a^e mod p` with the whole integer register, `a^0 = 1` for every `a`. -/
def Obligations.FieldPower : Prop :=
  ∀ (s : State) (rd rs1 : CellIdx) (k : KIdx), Sound s → Source s rs1 1 → kValid s k = true →
    ∃ t, exec (.fpow rd rs1 k) s = .next t ∧ OnlyCells s t rd 1 ∧
      canon t rd.toNat = canon s rs1.toNat ^ kReg s k % s.cfg.p

/-- R155: FSQRT gives the root that is at most `(p-1)/2`, 0 for 0, and NOSQRT (8) for a non-square. -/
def Obligations.SquareRoot : Prop :=
  ∀ (s : State) (rd rs1 : CellIdx), Sound s → Source s rs1 1 →
    (¬IsSquare (canon s rs1.toNat : ZMod s.cfg.p) → exec (.fsqrt rd rs1) s = .next (faulted s 8)) ∧
    (IsSquare (canon s rs1.toNat : ZMod s.cfg.p) →
      ∃ t, exec (.fsqrt rd rs1) s = .next t ∧ OnlyCells s t rd 1 ∧
        canon t rd.toNat ^ 2 % s.cfg.p = canon s rs1.toNat ∧ canon t rd.toNat ≤ (s.cfg.p - 1) / 2)

/-- R156 to R161: the six tests of the base field, on canonical values. FISSQ is Euler's criterion, 0 for
0. -/
def Obligations.FieldTests : Prop :=
  ∀ (s : State) (rs1 rs2 : CellIdx) (imm10 : BitVec 10), Sound s → Source s rs1 1 →
    (∃ t, exec (.fisz rs1) s = .next t ∧ OnlyT s t ∧ (t.t = true ↔ canon s rs1.toNat = 0)) ∧
    (Source s rs2 1 →
      (∃ t, exec (.feq rs1 rs2) s = .next t ∧ OnlyT s t ∧
        (t.t = true ↔ canon s rs1.toNat = canon s rs2.toNat)) ∧
      (∃ t, exec (.flt rs1 rs2) s = .next t ∧ OnlyT s t ∧
        (t.t = true ↔ canon s rs1.toNat < canon s rs2.toNat))) ∧
    (∃ t, exec (.fissq rs1) s = .next t ∧ OnlyT s t ∧
      (t.t = true ↔ canon s rs1.toNat ≠ 0 ∧ IsSquare (canon s rs1.toNat : ZMod s.cfg.p))) ∧
    (∃ t, exec (.fsign rs1) s = .next t ∧ OnlyT s t ∧
      (t.t = true ↔ (s.cfg.p - 1) / 2 < canon s rs1.toNat)) ∧
    (∃ t, exec (.fbit rs1 imm10) s = .next t ∧ OnlyT s t ∧
      (t.t = true ↔ canon s rs1.toNat / 2 ^ imm10.toNat % 2 = 1))

/-- R163, R146, R147: for all raw `x`, `y`, `FROMMONT(MMUL(TOMONT(x), TOMONT(y))) = BMUL(x, y)`, here as five
commands with any five distinct destinations `a` to `e` that are none of the sources; the sources `rs1` and `rs2`
may be one cell. -/
def Obligations.UnitsAgree : Prop :=
  ∀ (s : State) (rs1 rs2 a b c d e : CellIdx), Sound s → Source s rs1 1 → Source s rs2 1 →
    [a, b, c, d, e].Nodup → rs1 ∉ [a, b, c, d, e] → rs2 ∉ [a, b, c, d, e] →
    ∃ s1 s2 s3 s4 s5,
      exec (.tomont a rs1) s = .next s1 ∧ exec (.tomont b rs2) s1 = .next s2 ∧
      exec (.mmul c a b) s2 = .next s3 ∧ exec (.frommont d c) s3 = .next s4 ∧
      exec (.bmul e rs1 rs2) s4 = .next s5 ∧ rawCell s5 d.toNat = rawCell s5 e.toNat

/-! ## The towers (R180 to R255) -/

/-- The sum, difference, product, square and negative of a tower of `n` cells whose elements `ev` reads. -/
def Spec.RingCommands (s : State) {A : Type} [CommRing A] (n : Nat) (ev : (Nat → Nat) → Nat → A)
    (add sub mul : CellIdx → CellIdx → CellIdx → Instr) (sqr neg : CellIdx → CellIdx → Instr) : Prop :=
  ∀ rd rs1 rs2 : CellIdx, Dest rd n → Source s rs1 n →
    (Source s rs2 n →
      (∃ t, exec (add rd rs1 rs2) s = .next t ∧ OnlyCells s t rd n ∧
        ev (canon t) rd.toNat = ev (canon s) rs1.toNat + ev (canon s) rs2.toNat) ∧
      (∃ t, exec (sub rd rs1 rs2) s = .next t ∧ OnlyCells s t rd n ∧
        ev (canon t) rd.toNat = ev (canon s) rs1.toNat - ev (canon s) rs2.toNat) ∧
      (∃ t, exec (mul rd rs1 rs2) s = .next t ∧ OnlyCells s t rd n ∧
        ev (canon t) rd.toNat = ev (canon s) rs1.toNat * ev (canon s) rs2.toNat)) ∧
    (∃ t, exec (sqr rd rs1) s = .next t ∧ OnlyCells s t rd n ∧
      ev (canon t) rd.toNat = ev (canon s) rs1.toNat ^ 2) ∧
    (∃ t, exec (neg rd rs1) s = .next t ∧ OnlyCells s t rd n ∧
      ev (canon t) rd.toNat = -ev (canon s) rs1.toNat)

/-- The inverse of a tower, and INVZERO (7) when every cell is zero. -/
def Spec.InverseCommand (s : State) {A : Type} [CommRing A] (n : Nat) (ev : (Nat → Nat) → Nat → A)
    (inv : CellIdx → CellIdx → Instr) : Prop :=
  ∀ rd rs1 : CellIdx, Dest rd n → Source s rs1 n →
    ((∀ i < n, canon s (rs1.toNat + i) = 0) → exec (inv rd rs1) s = .next (faulted s 7)) ∧
    ((∃ i < n, canon s (rs1.toNat + i) ≠ 0) → ∃ t, exec (inv rd rs1) s = .next t ∧ OnlyCells s t rd n ∧
      ev (canon s) rs1.toNat * ev (canon t) rd.toNat = 1)

/-- The Frobenius map of a tower: `a^(p^pow)`, every power legal. -/
def Spec.FrobeniusCommand (s : State) {A : Type} [CommRing A] (n : Nat) (ev : (Nat → Nat) → Nat → A)
    (frob : CellIdx → CellIdx → BitVec 7 → Instr) : Prop :=
  ∀ (rd rs1 : CellIdx) (pow : BitVec 7), Dest rd n → Source s rs1 n →
    ∃ t, exec (frob rd rs1 pow) s = .next t ∧ OnlyCells s t rd n ∧
      ev (canon t) rd.toNat = ev (canon s) rs1.toNat ^ s.cfg.p ^ pow.toNat

/-- The two tests of a tower of `n` cells, coordinate by coordinate. -/
def Spec.TestCommands (s : State) (n : Nat) (isz : CellIdx → Instr) (eq : CellIdx → CellIdx → Instr) :
    Prop :=
  ∀ rs1 rs2 : CellIdx, Source s rs1 n →
    (∃ t, exec (isz rs1) s = .next t ∧ OnlyT s t ∧
      (t.t = true ↔ ∀ i < n, canon s (rs1.toNat + i) = 0)) ∧
    (Source s rs2 n → ∃ t, exec (eq rs1 rs2) s = .next t ∧ OnlyT s t ∧
      (t.t = true ↔ ∀ i < n, canon s (rs1.toNat + i) = canon s (rs2.toNat + i)))

/-- R184 to R188, R204 to R208, R180, R181, R200, R201: the F2 commands compute in `Fp[u]/(u^2 - NR2)`, the F3
commands in `Fp[u]/(u^3 - NR3)`. -/
def Obligations.LowerTowerArithmetic : Prop :=
  ∀ s : State, Sound s →
    (s.cfg.hasFp2 = true →
      Spec.RingCommands s 2 (Spec.ev2 s.cfg) .f2add .f2sub .f2mul .f2sqr .f2neg) ∧
    (s.cfg.hasFp3 = true →
      Spec.RingCommands s 3 (Spec.ev3 s.cfg) .f3add .f3sub .f3mul .f3sqr .f3neg)

/-- R225 to R229, R220, R221: the F6 commands compute in `Fp2[v]/(v^3 - NR6)` or in `Fp3[w]/(w^2 - NR6)`,
as F6KIND says. -/
def Obligations.Fp6Arithmetic : Prop :=
  ∀ s : State, Sound s →
    (∀ n, s.cfg.f6 = .over2 n →
      Spec.RingCommands s 6 (Spec.ev6 s.cfg n) .f6add .f6sub .f6mul .f6sqr .f6neg) ∧
    (∀ n, s.cfg.f6 = .over3 n →
      Spec.RingCommands s 6 (Spec.ev6b s.cfg n) .f6add .f6sub .f6mul .f6sqr .f6neg)

/-- R244 to R248, R240, R241: the F12 commands compute in `Fp6[w]/(w^2 - NR12)`. -/
def Obligations.Fp12Arithmetic : Prop :=
  ∀ (s : State) (n : F2), Sound s → s.cfg.hasFp12 = true → s.cfg.f6 = .over2 n →
    Spec.RingCommands s 12 (Spec.ev12 s.cfg n) .f12add .f12sub .f12mul .f12sqr .f12neg

/-- R189, R209: F2INV and F3INV give the inverse, and INVZERO exactly on the zero element. -/
def Obligations.LowerTowerInverses : Prop :=
  ∀ s : State, Sound s →
    (s.cfg.hasFp2 = true → Spec.InverseCommand s 2 (Spec.ev2 s.cfg) .f2inv) ∧
    (s.cfg.hasFp3 = true → Spec.InverseCommand s 3 (Spec.ev3 s.cfg) .f3inv)

/-- R230, R249: F6INV (both kinds) and F12INV give the inverse, and INVZERO exactly on the zero element. -/
def Obligations.UpperTowerInverses : Prop :=
  ∀ s : State, Sound s →
    (∀ n, s.cfg.f6 = .over2 n → Spec.InverseCommand s 6 (Spec.ev6 s.cfg n) .f6inv) ∧
    (∀ n, s.cfg.f6 = .over3 n → Spec.InverseCommand s 6 (Spec.ev6b s.cfg n) .f6inv) ∧
    (∀ n, s.cfg.f6 = .over2 n → s.cfg.hasFp12 = true →
      Spec.InverseCommand s 12 (Spec.ev12 s.cfg n) .f12inv)

/-- R190, R210: F2FROB and F3FROB are the Frobenius maps. -/
def Obligations.LowerTowerFrobenius : Prop :=
  ∀ s : State, Sound s →
    (s.cfg.hasFp2 = true → Spec.FrobeniusCommand s 2 (Spec.ev2 s.cfg) .f2frob) ∧
    (s.cfg.hasFp3 = true → Spec.FrobeniusCommand s 3 (Spec.ev3 s.cfg) .f3frob)

/-- R231, R250, and the reading of C5: F6FROB (both kinds) and F12FROB are the Frobenius maps. -/
def Obligations.UpperTowerFrobenius : Prop :=
  ∀ s : State, Sound s →
    (∀ n, s.cfg.f6 = .over2 n → Spec.FrobeniusCommand s 6 (Spec.ev6 s.cfg n) .f6frob) ∧
    (∀ n, s.cfg.f6 = .over3 n → Spec.FrobeniusCommand s 6 (Spec.ev6b s.cfg n) .f6frob) ∧
    (∀ n, s.cfg.f6 = .over2 n → s.cfg.hasFp12 = true →
      Spec.FrobeniusCommand s 12 (Spec.ev12 s.cfg n) .f12frob)

/-- R191, R192, R211, R212, R232, R233, R251, R252: the tests of the towers. -/
def Obligations.TowerTests : Prop :=
  ∀ s : State, Sound s →
    (s.cfg.hasFp2 = true → Spec.TestCommands s 2 .f2isz .f2eq) ∧
    (s.cfg.hasFp3 = true → Spec.TestCommands s 3 .f3isz .f3eq) ∧
    (s.cfg.f6 ≠ .none → Spec.TestCommands s 6 .f6isz .f6eq) ∧
    (s.cfg.hasFp12 = true → Spec.TestCommands s 12 .f12isz .f12eq)

/-- R253, R254, R255, R351: F12UINV conjugates any operand; F12CSQR and F12CEXP complete on any operand, and
under CYC give the square and the power; F12CEXP gives one for `e = 0` and the operand for `e = 1`, whatever it
is. -/
def Obligations.CyclotomicCommands : Prop :=
  ∀ (s : State) (n : F2) (rd rs1 : CellIdx) (k : KIdx), Sound s → s.cfg.hasFp12 = true →
    s.cfg.f6 = .over2 n → Dest rd 12 → Source s rs1 12 →
    (∃ t, exec (.f12uinv rd rs1) s = .next t ∧ OnlyCells s t rd 12 ∧
      (∀ i < 6, canon t (rd.toNat + i) = canon s (rs1.toNat + i)) ∧
      (∀ i < 6, (canon t (rd.toNat + 6 + i) + canon s (rs1.toNat + 6 + i)) % s.cfg.p = 0)) ∧
    (∃ t, exec (.f12csqr rd rs1) s = .next t ∧ OnlyCells s t rd 12 ∧
      (Spec.Cyc s.cfg n (Spec.ev12 s.cfg n (canon s) rs1.toNat) →
        Spec.ev12 s.cfg n (canon t) rd.toNat = Spec.ev12 s.cfg n (canon s) rs1.toNat ^ 2)) ∧
    (kValid s k = true → ∃ t, exec (.f12cexp rd rs1 k) s = .next t ∧ OnlyCells s t rd 12 ∧
      (Spec.Cyc s.cfg n (Spec.ev12 s.cfg n (canon s) rs1.toNat) ∨ kReg s k < 2 →
        Spec.ev12 s.cfg n (canon t) rd.toNat = Spec.ev12 s.cfg n (canon s) rs1.toNat ^ kReg s k))

/-- R351, U2: off the cyclotomic subgroup too, what F12CSQR, F12CEXP, EXPZ and FEXPH write is a function of the
operand (and of the exponent): two states of one configuration that agree on them get the same twelve cells. -/
def Obligations.CyclotomicDeterminism : Prop :=
  ∀ (s1 s2 t1 t2 : State) (rd rs1 : CellIdx) (k : KIdx), s1.cfg.WF → s1.cfg = s2.cfg →
    Dest rd 12 → Source s1 rs1 12 → Source s2 rs1 12 →
    (∀ i < 12, canon s1 (rs1.toNat + i) = canon s2 (rs1.toNat + i)) → kReg s1 k = kReg s2 k →
    kValid s1 k = true → kValid s2 k = true →
    ∀ i ∈ ([.f12csqr rd rs1, .f12cexp rd rs1 k, .expz rd rs1, .fexph rd rs1] : List Instr),
      exec i s1 = .next t1 → exec i s2 = .next t2 → Spec.present s1.cfg i = true →
      ∀ j < 12, canon t1 (rd.toNat + j) = canon t2 (rd.toNat + j)

/-! ## The groups (R270 to R289, R303 to R308) -/

/-- The five point formulas of a curve `y^2 = x^3 + a*x + b` on cells: doubling, addition, mixed addition,
negation (R262 to R265), for every triple, on the curve or not (R291). -/
def Spec.PointCommands (s : State) {A : Type} [CommRing A] (n : Nat) (ev : (Nat → Nat) → Nat → A) (a : A)
    (pdbl : CellIdx → CellIdx → Instr) (padd pmadd : CellIdx → CellIdx → CellIdx → Instr)
    (pneg : CellIdx → CellIdx → Instr) : Prop :=
  ∀ rd rs1 rs2 : CellIdx, Dest rd (3 * n) → Source s rs1 (3 * n) →
    (∃ t, exec (pdbl rd rs1) s = .next t ∧ OnlyCells s t rd (3 * n) ∧
      Spec.evPt n ev (canon t) rd.toNat = Spec.dbl a (Spec.evPt n ev (canon s) rs1.toNat)) ∧
    (Source s rs2 (3 * n) → ∃ t, exec (padd rd rs1 rs2) s = .next t ∧ OnlyCells s t rd (3 * n) ∧
      Spec.evPt n ev (canon t) rd.toNat =
        Spec.add a (Spec.evPt n ev (canon s) rs1.toNat) (Spec.evPt n ev (canon s) rs2.toNat)) ∧
    (Source s rs2 (2 * n) → ∃ t, exec (pmadd rd rs1 rs2) s = .next t ∧ OnlyCells s t rd (3 * n) ∧
      Spec.evPt n ev (canon t) rd.toNat =
        Spec.madd a (Spec.evPt n ev (canon s) rs1.toNat) (Spec.evAff n ev (canon s) rs2.toNat)) ∧
    (∃ t, exec (pneg rd rs1) s = .next t ∧ OnlyCells s t rd (3 * n) ∧
      Spec.evPt n ev (canon t) rd.toNat = Spec.neg (Spec.evPt n ev (canon s) rs1.toNat))

/-- R270 to R273, R262 to R265, R291: PDBL, PADD, PMADD, PNEG over `Fp` with `a = CURVE_A`. -/
def Obligations.G1Formulas : Prop :=
  ∀ s : State, Sound s →
    Spec.PointCommands s 1 (Spec.ev1 s.cfg) (s.cfg.curveA : Spec.A1 s.cfg) .pdbl .padd .pmadd .pneg

/-- R280 to R283, R262 to R265, R291: QDBL, QADD, QMADD, QNEG over `Fp2` with `a = 0`. -/
def Obligations.G2Formulas : Prop :=
  ∀ s : State, Sound s → s.cfg.hasG2 = true →
    Spec.PointCommands s 2 (Spec.ev2 s.cfg) 0 .qdbl .qadd .qmadd .qneg

/-- Conversion to affine (R266): IDENTITY (9) when `Z = 0`; else `x * Z^2 = X` and `y * Z^3 = Y`. -/
def Spec.AffineCommand (s : State) {A : Type} [CommRing A] (n : Nat) (ev : (Nat → Nat) → Nat → A)
    (paff : CellIdx → CellIdx → Instr) : Prop :=
  ∀ rd rs1 : CellIdx, Dest rd (2 * n) → Source s rs1 (3 * n) →
    ((∀ i < n, canon s (rs1.toNat + 2 * n + i) = 0) → exec (paff rd rs1) s = .next (faulted s 9)) ∧
    ((∃ i < n, canon s (rs1.toNat + 2 * n + i) ≠ 0) →
      ∃ t, exec (paff rd rs1) s = .next t ∧ OnlyCells s t rd (2 * n) ∧
        (Spec.evAff n ev (canon t) rd.toNat).x * (Spec.evPt n ev (canon s) rs1.toNat).z ^ 2 =
          (Spec.evPt n ev (canon s) rs1.toNat).x ∧
        (Spec.evAff n ev (canon t) rd.toNat).y * (Spec.evPt n ev (canon s) rs1.toNat).z ^ 3 =
          (Spec.evPt n ev (canon s) rs1.toNat).y)

/-- R274, R284, R266: PAFF and QAFF. -/
def Obligations.ToAffine : Prop :=
  ∀ s : State, Sound s →
    Spec.AffineCommand s 1 (Spec.ev1 s.cfg) .paff ∧
    (s.cfg.hasG2 = true → Spec.AffineCommand s 2 (Spec.ev2 s.cfg) .qaff)

/-- The three tests of a group (R261, R267, R268), with the curve equation given as a predicate. -/
def Spec.PointTests (s : State) {A : Type} [CommRing A] (n : Nat) (ev : (Nat → Nat) → Nat → A)
    (onCurve : Pt A → Prop) (isid : CellIdx → Instr) (eq : CellIdx → CellIdx → Instr)
    (iswf : CellIdx → Instr) : Prop :=
  ∀ rs1 rs2 : CellIdx, Source s rs1 (3 * n) →
    (∃ t, exec (isid rs1) s = .next t ∧ OnlyT s t ∧
      (t.t = true ↔ (Spec.evPt n ev (canon s) rs1.toNat).z = 0)) ∧
    (Source s rs2 (3 * n) → ∃ t, exec (eq rs1 rs2) s = .next t ∧ OnlyT s t ∧
      (t.t = true ↔
        let P := Spec.evPt n ev (canon s) rs1.toNat
        let Q := Spec.evPt n ev (canon s) rs2.toNat
        (P.z = 0 ∧ Q.z = 0) ∨
        (P.z ≠ 0 ∧ Q.z ≠ 0 ∧ P.x * Q.z ^ 2 = Q.x * P.z ^ 2 ∧ P.y * Q.z ^ 3 = Q.y * P.z ^ 3))) ∧
    (∃ t, exec (iswf rs1) s = .next t ∧ OnlyT s t ∧
      (t.t = true ↔ (Spec.evPt n ev (canon s) rs1.toNat).z = 0 ∨
        onCurve (Spec.evPt n ev (canon s) rs1.toNat)))

/-- R275 to R277, R285 to R287: PISID, PEQ, PISWF and the same of G2, whose `b` is `CURVE_B * TWIST^-1`. -/
def Obligations.PointTests : Prop :=
  ∀ s : State, Sound s →
    Spec.PointTests s 1 (Spec.ev1 s.cfg)
      (fun P => P.y ^ 2 = P.x ^ 3 + (s.cfg.curveA : Spec.A1 s.cfg) * P.x * P.z ^ 4 +
        (s.cfg.curveB : Spec.A1 s.cfg) * P.z ^ 6) .pisid .peq .piswf ∧
    (s.cfg.hasG2 = true → Spec.PointTests s 2 (Spec.ev2 s.cfg)
      (fun P => Spec.elF2 s.cfg s.cfg.twist * P.y ^ 2 =
        Spec.elF2 s.cfg s.cfg.twist * P.x ^ 3 + (s.cfg.curveB : Spec.A2 s.cfg) * P.z ^ 6)
      .qisid .qeq .qiswf)

/-- R278, R279, R288, R289: the constants `(0, 1, 0)` and the generators with `Z = 1`, cell by cell. -/
def Obligations.PointConstants : Prop :=
  ∀ (s : State) (rd : CellIdx), Sound s →
    (Dest rd 3 →
      (∃ t, exec (.pzero rd) s = .next t ∧ OnlyCells s t rd 3 ∧
        [canon t rd.toNat, canon t (rd.toNat + 1), canon t (rd.toNat + 2)] = [0, 1, 0]) ∧
      (∃ t, exec (.pone rd) s = .next t ∧ OnlyCells s t rd 3 ∧
        [canon t rd.toNat, canon t (rd.toNat + 1), canon t (rd.toNat + 2)] =
          [s.cfg.gen1.x, s.cfg.gen1.y, 1])) ∧
    (s.cfg.hasG2 = true → Dest rd 6 →
      (∃ t, exec (.qzero rd) s = .next t ∧ OnlyCells s t rd 6 ∧
        [canon t rd.toNat, canon t (rd.toNat + 1), canon t (rd.toNat + 2), canon t (rd.toNat + 3),
          canon t (rd.toNat + 4), canon t (rd.toNat + 5)] = [0, 0, 1, 0, 0, 0]) ∧
      (∃ t, exec (.qone rd) s = .next t ∧ OnlyCells s t rd 6 ∧
        [canon t rd.toNat, canon t (rd.toNat + 1), canon t (rd.toNat + 2), canon t (rd.toNat + 3),
          canon t (rd.toNat + 4), canon t (rd.toNat + 5)] =
          [s.cfg.gen2.x.c0, s.cfg.gen2.x.c1, s.cfg.gen2.y.c0, s.cfg.gen2.y.c1, 1, 0]))

/-- R303, R304, R306, R307, R300, R301: PSMUL, QSMUL by double-and-add, PSMULW, QSMULW by a window of
`fn + 1` bits, for every scalar and every triple. -/
def Obligations.ScalarMultiplication : Prop :=
  ∀ (s : State) (rd rs1 : CellIdx) (k : KIdx) (wm1 : BitVec 3), Sound s → kValid s k = true →
    (Dest rd 3 → Source s rs1 3 →
      (∃ t, exec (.psmul rd rs1 k) s = .next t ∧ OnlyCells s t rd 3 ∧
        Spec.evPt 1 (Spec.ev1 s.cfg) (canon t) rd.toNat =
          Spec.smul (s.cfg.curveA : Spec.A1 s.cfg) (Spec.evPt 1 (Spec.ev1 s.cfg) (canon s) rs1.toNat)
            (kReg s k)) ∧
      (∃ t, exec (.psmulw rd rs1 k wm1) s = .next t ∧ OnlyCells s t rd 3 ∧
        Spec.evPt 1 (Spec.ev1 s.cfg) (canon t) rd.toNat =
          Spec.smulw (s.cfg.curveA : Spec.A1 s.cfg) (Spec.evPt 1 (Spec.ev1 s.cfg) (canon s) rs1.toNat)
            (kReg s k) (wm1.toNat + 1))) ∧
    (s.cfg.hasG2 = true → Dest rd 6 → Source s rs1 6 →
      (∃ t, exec (.qsmul rd rs1 k) s = .next t ∧ OnlyCells s t rd 6 ∧
        Spec.evPt 2 (Spec.ev2 s.cfg) (canon t) rd.toNat =
          Spec.smul 0 (Spec.evPt 2 (Spec.ev2 s.cfg) (canon s) rs1.toNat) (kReg s k)) ∧
      (∃ t, exec (.qsmulw rd rs1 k wm1) s = .next t ∧ OnlyCells s t rd 6 ∧
        Spec.evPt 2 (Spec.ev2 s.cfg) (canon t) rd.toNat =
          Spec.smulw 0 (Spec.evPt 2 (Spec.ev2 s.cfg) (canon s) rs1.toNat) (kReg s k) (wm1.toNat + 1)))

/-- R305, R308, R302: the least `w` in `1..22` whose table entry exceeds `K[ks]`, else 22. -/
def Obligations.WindowSelection : Prop :=
  ∀ (s : State) (kd ks : KIdx), kValid s ks = true →
    ∀ x ∈ ([(Instr.winsel1 kd ks, s.cfg.wtab1, true), (.winsel2 kd ks, s.cfg.wtab2, s.cfg.hasG2)] :
        List (Instr × Vector (BitVec 32) 22 × Bool)),
      x.2.2 = true → ∃ t, exec x.1 s = .next t ∧ OnlyK s t kd ∧
        1 ≤ kReg t kd ∧ kReg t kd ≤ 22 ∧
        (∀ w, 1 ≤ w → w < kReg t kd → (x.2.1.toList.getD (w - 1) 0).toNat ≤ kReg s ks) ∧
        ((∃ w, 1 ≤ w ∧ w ≤ 22 ∧ kReg s ks < (x.2.1.toList.getD (w - 1) 0).toNat) →
          kReg s ks < (x.2.1.toList.getD (kReg t kd - 1) 0).toNat) ∧
        ((∀ w, 1 ≤ w → w ≤ 22 → (x.2.1.toList.getD (w - 1) 0).toNat ≤ kReg s ks) → kReg t kd = 22)

/-- The point commands are the operations of the group of `y^2 = x^3 + a*x + b` over the field `F`, on
operands that represent points of it (R290, R309); each command with its own operands only. -/
def Spec.GroupLaw (s : State) {F : Type} [Field F] [DecidableEq F] (n : Nat)
    (ev : (Nat → Nat) → Nat → F) (a b : F) (pdbl : CellIdx → CellIdx → Instr)
    (padd pmadd : CellIdx → CellIdx → CellIdx → Instr) (pneg : CellIdx → CellIdx → Instr)
    (psmul : CellIdx → CellIdx → KIdx → Instr) (psmulw : CellIdx → CellIdx → KIdx → BitVec 3 → Instr) :
    Prop :=
  ∀ (rd rs1 : CellIdx) (P : (Spec.curve a b).Point), Dest rd (3 * n) → Source s rs1 (3 * n) →
    Spec.Represents (Spec.evPt n ev (canon s) rs1.toNat) P →
    (∃ t, exec (pdbl rd rs1) s = .next t ∧ Spec.Represents (Spec.evPt n ev (canon t) rd.toNat) (2 • P)) ∧
    (∃ t, exec (pneg rd rs1) s = .next t ∧ Spec.Represents (Spec.evPt n ev (canon t) rd.toNat) (-P)) ∧
    (∀ (rs2 : CellIdx) (Q : (Spec.curve a b).Point), Source s rs2 (3 * n) →
      Spec.Represents (Spec.evPt n ev (canon s) rs2.toNat) Q →
      ∃ t, exec (padd rd rs1 rs2) s = .next t ∧
        Spec.Represents (Spec.evPt n ev (canon t) rd.toNat) (P + Q)) ∧
    (∀ (rs2 : CellIdx) (A : (Spec.curve a b).Point), Source s rs2 (2 * n) →
      Spec.Represents ⟨ev (canon s) rs2.toNat, ev (canon s) (rs2.toNat + n), 1⟩ A →
      ∃ t, exec (pmadd rd rs1 rs2) s = .next t ∧
        Spec.Represents (Spec.evPt n ev (canon t) rd.toNat) (P + A)) ∧
    (∀ k : KIdx, kValid s k = true →
      (∃ t, exec (psmul rd rs1 k) s = .next t ∧
        Spec.Represents (Spec.evPt n ev (canon t) rd.toNat) (kReg s k • P)) ∧
      (∀ wm1 : BitVec 3, ∃ t, exec (psmulw rd rs1 k wm1) s = .next t ∧
        Spec.Represents (Spec.evPt n ev (canon t) rd.toNat) (kReg s k • P)))

/-- R290, R309: G1. The field `F` is any copy of `Fp`. -/
def Obligations.G1GroupLaw : Prop :=
  ∀ (s : State) (F : Type) [Field F] [DecidableEq F] (φ : Spec.A1 s.cfg ≃+* F), Sound s →
    Spec.GroupLaw s 1 (fun v b => φ (Spec.ev1 s.cfg v b)) (s.cfg.curveA : F) (s.cfg.curveB : F)
      .pdbl .padd .pmadd .pneg .psmul .psmulw

/-- R290, R309: G2. The field `F` is any copy of `Fp2`, and `b = CURVE_B * TWIST^-1`. -/
def Obligations.G2GroupLaw : Prop :=
  ∀ (s : State) (F : Type) [Field F] [DecidableEq F] (φ : Spec.A2 s.cfg ≃+* F), Sound s →
    s.cfg.hasG2 = true →
    Spec.GroupLaw s 2 (fun v b => φ (Spec.ev2 s.cfg v b)) 0
      ((s.cfg.curveB : F) * (φ (Spec.elF2 s.cfg s.cfg.twist))⁻¹) .qdbl .qadd .qmadd .qneg .qsmul .qsmulw

/-! ## The pairing engine (R325 to R329, R357 to R360) -/

/-- `TWO_INV` and `TWIST_B` in `Fp2` (R11): the two elements these equations determine. -/
def Spec.PairingConstants (c : Config) (half B : Spec.A2 c) : Prop :=
  2 * half = 1 ∧ Spec.elF2 c c.twist * B = (c.curveB : Spec.A2 c)

/-- The bank `bk` is `Precompute(Q)` (R322): the affine point of `Q`, the records of the main loop, and with a
negative loop count one more. -/
def Spec.BankOf (c : Config) (half B : Spec.A2 c) (Q : Pt (Spec.A2 c)) (bk : Bank) : Prop :=
  let m := Spec.mainLoop half (Spec.elF2 c c.twist) B ⟨Spec.elF2 c bk.qx, Spec.elF2 c bk.qy⟩ c.loopcount
  Spec.elF2 c bk.qx * Q.z ^ 2 = Q.x ∧ Spec.elF2 c bk.qy * Q.z ^ 3 = Q.y ∧
  (c.loopneg = false → bk.recs.map (Spec.elLine c) = m.2) ∧
  (c.loopneg = true → ∃ zi, m.1.z * zi = 1 ∧
    bk.recs.map (Spec.elLine c) = m.2 ++ [Spec.negStep (Spec.elF2 c c.twist) m.1 zi]) ∧
  bk.recs.length = ((Nat.digits 2 c.loopcount).length - 1) + ((Nat.digits 2 c.loopcount).sum - 1) +
    (if c.loopneg then 1 else 0)

/-- The loop count is negative and the running point after the main loop has `Z = 0`: what raises INVZERO in
`Precompute` (R322). -/
def Spec.LoopVanishes (c : Config) (half B : Spec.A2 c) (Q : Pt (Spec.A2 c)) : Prop :=
  c.loopneg = true ∧ ∀ q : Aff (Spec.A2 c), q.x * Q.z ^ 2 = Q.x → q.y * Q.z ^ 3 = Q.y →
    (Spec.mainLoop half (Spec.elF2 c c.twist) B q c.loopcount).1.z = 0

/-- R325, R320 to R322, R29: PRECOMP raises IDENTITY (9) on the identity, INVZERO (7) when the negative-count
step cannot divide, and else fills the bank whole. -/
def Obligations.Precomputation : Prop :=
  ∀ (s : State) (b : BankIdx) (rs1 : CellIdx), Sound s → s.cfg.hasPair = true → Source s rs1 6 →
    ∃ half B, Spec.PairingConstants s.cfg half B ∧
      let Q := Spec.evPt 2 (Spec.ev2 s.cfg) (canon s) rs1.toNat
      (Q.z = 0 → exec (.precomp b rs1) s = .next (faulted s 9)) ∧
      (Q.z ≠ 0 → Spec.LoopVanishes s.cfg half B Q → exec (.precomp b rs1) s = .next (faulted s 7)) ∧
      (Q.z ≠ 0 → ¬Spec.LoopVanishes s.cfg half B Q →
        ∃ t, exec (.precomp b rs1) s = .next t ∧ OnlyBank s t b ∧
          Spec.BankOf s.cfg half B Q (bank t b))

/-- R326, R327, R323, R324: MILLER with the bank it names, MILLER2 with both banks and one squaring a bit. -/
def Obligations.MillerLoop : Prop :=
  ∀ (s : State) (n : F2) (rd rs1 rs2 : CellIdx), Sound s → BanksFull s → s.cfg.hasPair = true →
    s.cfg.f6 = .over2 n → Dest rd 12 → Source s rs1 2 →
    (∀ b : BankIdx, bankValid s b = true → ∃ t, exec (.miller rd rs1 b) s = .next t ∧
      MillerCells s t rd ∧ SameBanks s t ∧
      Spec.ev12 s.cfg n (canon t) rd.toNat = Spec.miller s.cfg.loopcount s.cfg.loopneg
        (Spec.lineAt s.cfg n (bank s b) (canon s) rs1.toNat)) ∧
    (bankValid s 0 = true → bankValid s 1 = true → Source s rs2 2 →
      ∃ t, exec (.miller2 rd rs1 rs2) s = .next t ∧ MillerCells s t rd ∧ SameBanks s t ∧
        Spec.ev12 s.cfg n (canon t) rd.toNat = Spec.miller s.cfg.loopcount s.cfg.loopneg (fun i =>
          Spec.lineAt s.cfg n (bank s 0) (canon s) rs1.toNat i *
            Spec.lineAt s.cfg n (bank s 1) (canon s) rs2.toNat i))

/-- The Miller value of the affine point `(px, py)` with the bank `bk` (R323, R324). -/
noncomputable def Spec.millerValue (c : Config) (n : F2) (bk : Bank) (px py : Nat) : Spec.A12 c n :=
  Spec.miller c.loopcount c.loopneg
    (fun i => Spec.gline c n (Spec.elLine c (bk.recs.getD i default)) px py)

/-- `(px, py)` is the affine point of the Jacobian triple `P` over `Fp` (R266). -/
def Spec.AffineOf (c : Config) (P : Pt (Spec.A1 c)) (px py : Nat) : Prop :=
  (px : Spec.A1 c) * P.z ^ 2 = P.x ∧ (py : Spec.A1 c) * P.z ^ 3 = P.y

/-- R328: PAIR is PAFF, PRECOMP into bank 0 and MILLER as one step; IDENTITY (9) when either point is the
identity, INVZERO (7) as PRECOMP. -/
def Obligations.PairCommand : Prop :=
  ∀ (s : State) (n : F2) (rd rs1 rs2 : CellIdx), Sound s → s.cfg.hasPair = true → s.cfg.f6 = .over2 n →
    Dest rd 12 → Source s rs1 3 → Source s rs2 6 →
    ∃ half B, Spec.PairingConstants s.cfg half B ∧
      let P := Spec.evPt 1 (Spec.ev1 s.cfg) (canon s) rs1.toNat
      let Q := Spec.evPt 2 (Spec.ev2 s.cfg) (canon s) rs2.toNat
      (P.z = 0 ∨ Q.z = 0 → exec (.pair rd rs1 rs2) s = .next (faulted s 9)) ∧
      (P.z ≠ 0 → Q.z ≠ 0 → Spec.LoopVanishes s.cfg half B Q →
        exec (.pair rd rs1 rs2) s = .next (faulted s 7)) ∧
      (P.z ≠ 0 → Q.z ≠ 0 → ¬Spec.LoopVanishes s.cfg half B Q →
        ∃ t px py, exec (.pair rd rs1 rs2) s = .next t ∧ MillerCells s t rd ∧ OtherBanks s t 0 ∧
          Spec.BankOf s.cfg half B Q (bank t 0) ∧ Spec.AffineOf s.cfg P px py ∧
          Spec.ev12 s.cfg n (canon t) rd.toNat = Spec.millerValue s.cfg n (bank t 0) px py)

/-- The exponent `m` gives what the hard part's chain gives on the cyclotomic subgroup (R355). -/
def Spec.IsChainExponent (c : Config) (m : Nat) : Prop :=
  (m : Int) ≡ Spec.chainExponent c [ZMOD (Spec.phi12 c : Int)]

/-- R329, R361: PAIRR is PAIR with the Miller value raised to `(p^6 - 1)(p^2 + 1) X(CHAINOUT)`; INVZERO (7)
also when the Miller value is zero. -/
def Obligations.ReducedPairCommand : Prop :=
  ∀ (s : State) (n : F2) (rd rs1 rs2 : CellIdx), Sound s → s.cfg.hasPair = true → s.cfg.f6 = .over2 n →
    Dest rd 12 → Source s rs1 3 → Source s rs2 6 →
    ∃ half B, Spec.PairingConstants s.cfg half B ∧
      let P := Spec.evPt 1 (Spec.ev1 s.cfg) (canon s) rs1.toNat
      let Q := Spec.evPt 2 (Spec.ev2 s.cfg) (canon s) rs2.toNat
      (P.z = 0 ∨ Q.z = 0 → exec (.pairr rd rs1 rs2) s = .next (faulted s 9)) ∧
      (P.z ≠ 0 → Q.z ≠ 0 → Spec.LoopVanishes s.cfg half B Q →
        exec (.pairr rd rs1 rs2) s = .next (faulted s 7)) ∧
      (P.z ≠ 0 → Q.z ≠ 0 → ¬Spec.LoopVanishes s.cfg half B Q →
        ∃ bk px py, Spec.BankOf s.cfg half B Q bk ∧ Spec.AffineOf s.cfg P px py ∧
          (Spec.millerValue s.cfg n bk px py = 0 →
            exec (.pairr rd rs1 rs2) s = .next (faulted s 7)) ∧
          (Spec.millerValue s.cfg n bk px py ≠ 0 →
            ∃ t, exec (.pairr rd rs1 rs2) s = .next t ∧ MillerCells s t rd ∧ OtherBanks s t 0 ∧
              bank t 0 = bk ∧
              ∀ m, Spec.IsChainExponent s.cfg m →
                Spec.ev12 s.cfg n (canon t) rd.toNat = Spec.millerValue s.cfg n bk px py ^
                  ((s.cfg.p ^ 6 - 1) * (s.cfg.p ^ 2 + 1) * m)))

/-- R357 to R360, R352 to R355, R361: FEXPE raises to `(p^6 - 1)(p^2 + 1)`, FEXP to that times the chain's
exponent, both with INVZERO (7) on zero; FEXPH and EXPZ complete on any operand, and under CYC raise to the
chain's exponent and to `z`. -/
def Obligations.FinalExponentiation : Prop :=
  ∀ (s : State) (n : F2) (rd rs1 : CellIdx), Sound s → s.cfg.hasPair = true → s.cfg.f6 = .over2 n →
    Dest rd 12 → Source s rs1 12 →
    let a := Spec.ev12 s.cfg n (canon s) rs1.toNat
    ((∀ i < 12, canon s (rs1.toNat + i) = 0) →
      exec (.fexpe rd rs1) s = .next (faulted s 7) ∧ exec (.fexp rd rs1) s = .next (faulted s 7)) ∧
    ((∃ i < 12, canon s (rs1.toNat + i) ≠ 0) →
      (∃ t, exec (.fexpe rd rs1) s = .next t ∧ OnlyCells s t rd 12 ∧
        Spec.ev12 s.cfg n (canon t) rd.toNat = a ^ ((s.cfg.p ^ 6 - 1) * (s.cfg.p ^ 2 + 1))) ∧
      (∃ t, exec (.fexp rd rs1) s = .next t ∧ OnlyCells s t rd 12 ∧
        ∀ m, Spec.IsChainExponent s.cfg m →
          Spec.ev12 s.cfg n (canon t) rd.toNat = a ^ ((s.cfg.p ^ 6 - 1) * (s.cfg.p ^ 2 + 1) * m))) ∧
    (∃ t, exec (.fexph rd rs1) s = .next t ∧ OnlyCells s t rd 12 ∧
      (Spec.Cyc s.cfg n a → ∀ m, Spec.IsChainExponent s.cfg m →
        Spec.ev12 s.cfg n (canon t) rd.toNat = a ^ m)) ∧
    (∃ t, exec (.expz rd rs1) s = .next t ∧ OnlyCells s t rd 12 ∧
      (Spec.Cyc s.cfg n a → ∀ m : Nat, (m : Int) ≡ Spec.zParam s.cfg [ZMOD (Spec.phi12 s.cfg : Int)] →
        Spec.ev12 s.cfg n (canon t) rd.toNat = a ^ m))
end

