-- ==== Sys2Proof/Laws/Arith.lean ====
section
/-! SUPPORT. The integer functions of Machine/Field.lean and Machine/Derived.lean: bit lengths, the
square-and-multiply loop in any commutative monoid, the modular power and inverse (rules R13, R143, R154). -/

namespace Sys2Proof.Machine

theorem lt_two_pow_bitlen (n : Nat) : n < 2 ^ bitlen n := by
  unfold bitlen
  split
  · next h => simp [h]
  · exact Nat.lt_log2_self

theorem bitlen_zero : bitlen 0 = 0 := rfl

theorem two_pow_bitlen_le {n : Nat} (h : n ≠ 0) : 2 ^ (bitlen n - 1) ≤ n := by
  simpa [bitlen, h] using Nat.log2_self_le h

/-- `bitlen` is Mathlib's `Nat.size`. -/
theorem bitlen_eq_size (n : Nat) : bitlen n = n.size := by
  by_cases h : n = 0
  · simp [h, bitlen]
  · apply Nat.le_antisymm
    · have h1 : bitlen n - 1 < n.size := (Nat.lt_size).2 (two_pow_bitlen_le h)
      have h2 : 0 < bitlen n := by simp [bitlen, h]
      omega
    · exact Nat.size_le.2 (lt_two_pow_bitlen n)

/-- The loop of R154 under a map that respects the multiplication: what it does to the accumulator. -/
theorem powLoop_hom {α M : Type} [CommMonoid M] {mul : α → α → α} {φ : α → M}
    (hmul : ∀ x y, φ (mul x y) = φ x * φ y) (a : α) (e i : Nat) (r : α) :
    φ (powLoop mul a e i r) = φ r ^ 2 ^ i * φ a ^ (e % 2 ^ i) := by
  induction i generalizing r with
  | zero => simp [powLoop, Nat.mod_one]
  | succ i ih =>
    rw [powLoop, ih]
    have hm : e % 2 ^ (i + 1) = (e.testBit i).toNat * 2 ^ i + e % 2 ^ i := by
      rw [Nat.pow_succ, Nat.mod_mul, Nat.testBit_eq_decide_div_mod_eq]
      rcases Nat.mod_two_eq_zero_or_one (e / 2 ^ i) with h | h <;> simp [h]
      omega
    rw [hm]
    cases e.testBit i
    · simp only [Bool.false_eq_true, if_false, hmul, Bool.toNat_false, Nat.zero_mul, Nat.zero_add]
      rw [← pow_two, ← pow_mul, ← Nat.pow_succ']
    · simp only [if_true, hmul, Bool.toNat_true, Nat.one_mul]
      rw [mul_pow, ← pow_two, ← pow_mul, ← Nat.pow_succ', mul_assoc, ← pow_add]

/-- Square-and-multiply from an accumulator of one is the power. -/
theorem powLoop_one {α M : Type} [CommMonoid M] {mul : α → α → α} {φ : α → M}
    (hmul : ∀ x y, φ (mul x y) = φ x * φ y) (a : α) (e : Nat) {r : α} (hr : φ r = 1) :
    φ (powLoop mul a e (bitlen e) r) = φ a ^ e := by
  rw [powLoop_hom hmul, hr, one_pow, one_mul, Nat.mod_eq_of_lt (lt_two_pow_bitlen e)]

/-- Every value of the modular loop is below the modulus. -/
theorem powLoop_mod_lt {p : Nat} (hp : 0 < p) (a e i : Nat) {r : Nat} (hr : r < p) :
    powLoop (fun x y => x * y % p) a e i r < p := by
  induction i generalizing r with
  | zero => exact hr
  | succ i ih =>
    rw [powLoop]
    apply ih
    split <;> exact Nat.mod_lt _ hp

/-- `powMod` is the power modulo `p` (R154). -/
theorem powMod_eq {p : Nat} (hp : 0 < p) (a e : Nat) : powMod p a e = a ^ e % p := by
  have h1 : powMod p a e < p := powLoop_mod_lt hp _ _ _ (Nat.mod_lt _ hp)
  have h2 : ((powMod p a e : Nat) : ZMod p) = ((a ^ e : Nat) : ZMod p) := by
    rw [Nat.cast_pow]
    exact powLoop_one (φ := fun x : Nat => (x : ZMod p)) (by intro x y; simp) a e (by simp)
  rw [ZMod.natCast_eq_natCast_iff'] at h2
  rwa [Nat.mod_eq_of_lt h1] at h2

/-- `Inv(a)` is the inverse (R143). -/
theorem mul_invMod {p : Nat} (hp : p.Prime) {a : Nat} (ha : a % p ≠ 0) : a * invMod p a % p = 1 := by
  have h1 : 1 < p := hp.one_lt
  rw [invMod, powMod_eq hp.pos, Nat.mul_mod, Nat.mod_mod, ← Nat.mul_mod, ← Nat.pow_succ',
    show (p - 2).succ = p - 1 by omega]
  have := Fact.mk hp
  have hz : (a : ZMod p) ≠ 0 := by
    rw [Ne, ZMod.natCast_eq_zero_iff]
    exact fun h => ha (Nat.mod_eq_zero_of_dvd h)
  have := ZMod.pow_card_sub_one_eq_one hz
  have h2 : ((a ^ (p - 1) : Nat) : ZMod p) = ((1 : Nat) : ZMod p) := by push_cast; exact this
  rw [ZMod.natCast_eq_natCast_iff'] at h2
  rwa [Nat.mod_eq_of_lt h1] at h2

theorem invMod_lt {p : Nat} (hp : 0 < p) (a : Nat) : invMod p a < p :=
  powLoop_mod_lt hp _ _ _ (Nat.mod_lt _ hp)

/-! What a well-formed configuration says of its modulus (R9). -/

theorem modulus_facts {c : Config} (h : c.wfCheck = true) :
    c.p % 2 = 1 ∧ 3 < c.p ∧ c.modbits = bitlen c.p ∧ 2 ≤ c.modbits ∧ c.modbits ≤ 768 ∧
      c.modbits ≤ c.rbits ∧ c.nqr < c.p ∧ powMod c.p c.nqr ((c.p - 1) / 2) = c.p - 1 := by
  have hm : modulusOk c = true := by
    simp only [Config.wfCheck, Bool.and_eq_true] at h
    exact h.1
  simp only [modulusOk, Bool.and_eq_true, decide_eq_true_eq, beq_iff_eq, inFp] at hm
  obtain ⟨_, ⟨⟨⟨⟨⟨⟨h2, h3⟩, h4⟩, h5⟩, h6⟩, h7⟩, h8⟩, h9⟩ := hm
  exact ⟨h2, h3, h4, h5, h6, h7, h8, h9⟩

end Sys2Proof.Machine
end

