-- ==== Sys2Proof/Laws/State.lean ====
section
/-! SUPPORT. What each update of the state does to each field, one lemma per field, so that no proof unfolds a
record update. -/

namespace Sys2Proof.Machine

/-! `setCell`. -/

@[simp] theorem setCell_cfg (s : State) (i v : Nat) : (setCell s i v).cfg = s.cfg := rfl
@[simp] theorem setCell_f (s : State) (i v : Nat) : (setCell s i v).f = s.f.setIfInBounds i v := rfl
@[simp] theorem setCell_fv (s : State) (i v : Nat) : (setCell s i v).fv = s.fv.setIfInBounds i true := rfl
@[simp] theorem setCell_k (s : State) (i v : Nat) : (setCell s i v).k = s.k := rfl
@[simp] theorem setCell_kv (s : State) (i v : Nat) : (setCell s i v).kv = s.kv := rfl
@[simp] theorem setCell_cm (s : State) (i v : Nat) : (setCell s i v).cm = s.cm := rfl
@[simp] theorem setCell_cmv (s : State) (i v : Nat) : (setCell s i v).cmv = s.cmv := rfl
@[simp] theorem setCell_t (s : State) (i v : Nat) : (setCell s i v).t = s.t := rfl
@[simp] theorem setCell_xmem (s : State) (i v : Nat) : (setCell s i v).xmem = s.xmem := rfl
@[simp] theorem setCell_ctrl (s : State) (i v : Nat) : (setCell s i v).ctrl = s.ctrl := rfl
@[simp] theorem setCell_busy (s : State) (i v : Nat) : (setCell s i v).busy = s.busy := rfl
@[simp] theorem setCell_done (s : State) (i v : Nat) : (setCell s i v).done = s.done := rfl
@[simp] theorem setCell_fault (s : State) (i v : Nat) : (setCell s i v).fault = s.fault := rfl
@[simp] theorem setCell_hosterr (s : State) (i v : Nat) : (setCell s i v).hosterr = s.hosterr := rfl
@[simp] theorem setCell_mlstate (s : State) (i v : Nat) : (setCell s i v).mlstate = s.mlstate := rfl
@[simp] theorem setCell_fcode (s : State) (i v : Nat) : (setCell s i v).fcode = s.fcode := rfl
@[simp] theorem setCell_fcmd (s : State) (i v : Nat) : (setCell s i v).fcmd = s.fcmd := rfl
@[simp] theorem setCell_pend (s : State) (i v : Nat) : (setCell s i v).pend = s.pend := rfl
@[simp] theorem setCell_mlPrev (s : State) (i v : Nat) : (setCell s i v).mlPrev = s.mlPrev := rfl
@[simp] theorem setCell_hrdata (s : State) (i v : Nat) : (setCell s i v).hrdata = s.hrdata := rfl
@[simp] theorem setCell_inputs (s : State) (i v : Nat) : (setCell s i v).inputs = s.inputs := rfl

/-! `setK`. -/

@[simp] theorem setK_cfg (s : State) (i : KIdx) (v : Nat) : (setK s i v).cfg = s.cfg := rfl
@[simp] theorem setK_f (s : State) (i : KIdx) (v : Nat) : (setK s i v).f = s.f := rfl
@[simp] theorem setK_fv (s : State) (i : KIdx) (v : Nat) : (setK s i v).fv = s.fv := rfl
@[simp] theorem setK_k (s : State) (i : KIdx) (v : Nat) : (setK s i v).k = s.k.set i.toNat (BitVec.ofNat 768 v) i.isLt := rfl
@[simp] theorem setK_kv (s : State) (i : KIdx) (v : Nat) : (setK s i v).kv = s.kv.set i.toNat true i.isLt := rfl
@[simp] theorem setK_cm (s : State) (i : KIdx) (v : Nat) : (setK s i v).cm = s.cm := rfl
@[simp] theorem setK_cmv (s : State) (i : KIdx) (v : Nat) : (setK s i v).cmv = s.cmv := rfl
@[simp] theorem setK_t (s : State) (i : KIdx) (v : Nat) : (setK s i v).t = s.t := rfl
@[simp] theorem setK_xmem (s : State) (i : KIdx) (v : Nat) : (setK s i v).xmem = s.xmem := rfl
@[simp] theorem setK_ctrl (s : State) (i : KIdx) (v : Nat) : (setK s i v).ctrl = s.ctrl := rfl
@[simp] theorem setK_busy (s : State) (i : KIdx) (v : Nat) : (setK s i v).busy = s.busy := rfl
@[simp] theorem setK_done (s : State) (i : KIdx) (v : Nat) : (setK s i v).done = s.done := rfl
@[simp] theorem setK_fault (s : State) (i : KIdx) (v : Nat) : (setK s i v).fault = s.fault := rfl
@[simp] theorem setK_hosterr (s : State) (i : KIdx) (v : Nat) : (setK s i v).hosterr = s.hosterr := rfl
@[simp] theorem setK_mlstate (s : State) (i : KIdx) (v : Nat) : (setK s i v).mlstate = s.mlstate := rfl
@[simp] theorem setK_fcode (s : State) (i : KIdx) (v : Nat) : (setK s i v).fcode = s.fcode := rfl
@[simp] theorem setK_fcmd (s : State) (i : KIdx) (v : Nat) : (setK s i v).fcmd = s.fcmd := rfl
@[simp] theorem setK_pend (s : State) (i : KIdx) (v : Nat) : (setK s i v).pend = s.pend := rfl
@[simp] theorem setK_mlPrev (s : State) (i : KIdx) (v : Nat) : (setK s i v).mlPrev = s.mlPrev := rfl
@[simp] theorem setK_hrdata (s : State) (i : KIdx) (v : Nat) : (setK s i v).hrdata = s.hrdata := rfl
@[simp] theorem setK_inputs (s : State) (i : KIdx) (v : Nat) : (setK s i v).inputs = s.inputs := rfl

/-! `setBank`. -/

@[simp] theorem setBank_cfg (s : State) (b : BankIdx) (B : Bank) : (setBank s b B).cfg = s.cfg := rfl
@[simp] theorem setBank_f (s : State) (b : BankIdx) (B : Bank) : (setBank s b B).f = s.f := rfl
@[simp] theorem setBank_fv (s : State) (b : BankIdx) (B : Bank) : (setBank s b B).fv = s.fv := rfl
@[simp] theorem setBank_k (s : State) (b : BankIdx) (B : Bank) : (setBank s b B).k = s.k := rfl
@[simp] theorem setBank_kv (s : State) (b : BankIdx) (B : Bank) : (setBank s b B).kv = s.kv := rfl
@[simp] theorem setBank_cm (s : State) (b : BankIdx) (B : Bank) : (setBank s b B).cm = s.cm.set b.toNat B b.isLt := rfl
@[simp] theorem setBank_cmv (s : State) (b : BankIdx) (B : Bank) : (setBank s b B).cmv = s.cmv.set b.toNat true b.isLt := rfl
@[simp] theorem setBank_t (s : State) (b : BankIdx) (B : Bank) : (setBank s b B).t = s.t := rfl
@[simp] theorem setBank_xmem (s : State) (b : BankIdx) (B : Bank) : (setBank s b B).xmem = s.xmem := rfl
@[simp] theorem setBank_ctrl (s : State) (b : BankIdx) (B : Bank) : (setBank s b B).ctrl = s.ctrl := rfl
@[simp] theorem setBank_busy (s : State) (b : BankIdx) (B : Bank) : (setBank s b B).busy = s.busy := rfl
@[simp] theorem setBank_done (s : State) (b : BankIdx) (B : Bank) : (setBank s b B).done = s.done := rfl
@[simp] theorem setBank_fault (s : State) (b : BankIdx) (B : Bank) : (setBank s b B).fault = s.fault := rfl
@[simp] theorem setBank_hosterr (s : State) (b : BankIdx) (B : Bank) : (setBank s b B).hosterr = s.hosterr := rfl
@[simp] theorem setBank_mlstate (s : State) (b : BankIdx) (B : Bank) : (setBank s b B).mlstate = s.mlstate := rfl
@[simp] theorem setBank_fcode (s : State) (b : BankIdx) (B : Bank) : (setBank s b B).fcode = s.fcode := rfl
@[simp] theorem setBank_fcmd (s : State) (b : BankIdx) (B : Bank) : (setBank s b B).fcmd = s.fcmd := rfl
@[simp] theorem setBank_pend (s : State) (b : BankIdx) (B : Bank) : (setBank s b B).pend = s.pend := rfl
@[simp] theorem setBank_mlPrev (s : State) (b : BankIdx) (B : Bank) : (setBank s b B).mlPrev = s.mlPrev := rfl
@[simp] theorem setBank_hrdata (s : State) (b : BankIdx) (B : Bank) : (setBank s b B).hrdata = s.hrdata := rfl
@[simp] theorem setBank_inputs (s : State) (b : BankIdx) (B : Bank) : (setBank s b B).inputs = s.inputs := rfl

/-! `setT`. -/

@[simp] theorem setT_cfg (s : State) (b : Bool) : (setT s b).cfg = s.cfg := rfl
@[simp] theorem setT_f (s : State) (b : Bool) : (setT s b).f = s.f := rfl
@[simp] theorem setT_fv (s : State) (b : Bool) : (setT s b).fv = s.fv := rfl
@[simp] theorem setT_k (s : State) (b : Bool) : (setT s b).k = s.k := rfl
@[simp] theorem setT_kv (s : State) (b : Bool) : (setT s b).kv = s.kv := rfl
@[simp] theorem setT_cm (s : State) (b : Bool) : (setT s b).cm = s.cm := rfl
@[simp] theorem setT_cmv (s : State) (b : Bool) : (setT s b).cmv = s.cmv := rfl
@[simp] theorem setT_t (s : State) (b : Bool) : (setT s b).t = b := rfl
@[simp] theorem setT_xmem (s : State) (b : Bool) : (setT s b).xmem = s.xmem := rfl
@[simp] theorem setT_ctrl (s : State) (b : Bool) : (setT s b).ctrl = s.ctrl := rfl
@[simp] theorem setT_busy (s : State) (b : Bool) : (setT s b).busy = s.busy := rfl
@[simp] theorem setT_done (s : State) (b : Bool) : (setT s b).done = s.done := rfl
@[simp] theorem setT_fault (s : State) (b : Bool) : (setT s b).fault = s.fault := rfl
@[simp] theorem setT_hosterr (s : State) (b : Bool) : (setT s b).hosterr = s.hosterr := rfl
@[simp] theorem setT_mlstate (s : State) (b : Bool) : (setT s b).mlstate = s.mlstate := rfl
@[simp] theorem setT_fcode (s : State) (b : Bool) : (setT s b).fcode = s.fcode := rfl
@[simp] theorem setT_fcmd (s : State) (b : Bool) : (setT s b).fcmd = s.fcmd := rfl
@[simp] theorem setT_pend (s : State) (b : Bool) : (setT s b).pend = s.pend := rfl
@[simp] theorem setT_mlPrev (s : State) (b : Bool) : (setT s b).mlPrev = s.mlPrev := rfl
@[simp] theorem setT_hrdata (s : State) (b : Bool) : (setT s b).hrdata = s.hrdata := rfl
@[simp] theorem setT_inputs (s : State) (b : Bool) : (setT s b).inputs = s.inputs := rfl

/-! `setMl`. -/

@[simp] theorem setMl_cfg (s : State) (m : MLState) : (setMl s m).cfg = s.cfg := rfl
@[simp] theorem setMl_f (s : State) (m : MLState) : (setMl s m).f = s.f := rfl
@[simp] theorem setMl_fv (s : State) (m : MLState) : (setMl s m).fv = s.fv := rfl
@[simp] theorem setMl_k (s : State) (m : MLState) : (setMl s m).k = s.k := rfl
@[simp] theorem setMl_kv (s : State) (m : MLState) : (setMl s m).kv = s.kv := rfl
@[simp] theorem setMl_cm (s : State) (m : MLState) : (setMl s m).cm = s.cm := rfl
@[simp] theorem setMl_cmv (s : State) (m : MLState) : (setMl s m).cmv = s.cmv := rfl
@[simp] theorem setMl_t (s : State) (m : MLState) : (setMl s m).t = s.t := rfl
@[simp] theorem setMl_xmem (s : State) (m : MLState) : (setMl s m).xmem = s.xmem := rfl
@[simp] theorem setMl_ctrl (s : State) (m : MLState) : (setMl s m).ctrl = s.ctrl := rfl
@[simp] theorem setMl_busy (s : State) (m : MLState) : (setMl s m).busy = s.busy := rfl
@[simp] theorem setMl_done (s : State) (m : MLState) : (setMl s m).done = s.done := rfl
@[simp] theorem setMl_fault (s : State) (m : MLState) : (setMl s m).fault = s.fault := rfl
@[simp] theorem setMl_hosterr (s : State) (m : MLState) : (setMl s m).hosterr = s.hosterr := rfl
@[simp] theorem setMl_mlstate (s : State) (m : MLState) : (setMl s m).mlstate = m := rfl
@[simp] theorem setMl_fcode (s : State) (m : MLState) : (setMl s m).fcode = s.fcode := rfl
@[simp] theorem setMl_fcmd (s : State) (m : MLState) : (setMl s m).fcmd = s.fcmd := rfl
@[simp] theorem setMl_pend (s : State) (m : MLState) : (setMl s m).pend = s.pend := rfl
@[simp] theorem setMl_mlPrev (s : State) (m : MLState) : (setMl s m).mlPrev = s.mlPrev := rfl
@[simp] theorem setMl_hrdata (s : State) (m : MLState) : (setMl s m).hrdata = s.hrdata := rfl
@[simp] theorem setMl_inputs (s : State) (m : MLState) : (setMl s m).inputs = s.inputs := rfl

/-! `takeFault`. -/

@[simp] theorem takeFault_cfg (c : FaultCode) (s : State) : (takeFault c s).cfg = s.cfg := rfl
@[simp] theorem takeFault_f (c : FaultCode) (s : State) : (takeFault c s).f = s.f := rfl
@[simp] theorem takeFault_fv (c : FaultCode) (s : State) : (takeFault c s).fv = s.fv := rfl
@[simp] theorem takeFault_k (c : FaultCode) (s : State) : (takeFault c s).k = s.k := rfl
@[simp] theorem takeFault_kv (c : FaultCode) (s : State) : (takeFault c s).kv = s.kv := rfl
@[simp] theorem takeFault_cm (c : FaultCode) (s : State) : (takeFault c s).cm = s.cm := rfl
@[simp] theorem takeFault_cmv (c : FaultCode) (s : State) : (takeFault c s).cmv = s.cmv := rfl
@[simp] theorem takeFault_t (c : FaultCode) (s : State) : (takeFault c s).t = s.t := rfl
@[simp] theorem takeFault_xmem (c : FaultCode) (s : State) : (takeFault c s).xmem = s.xmem := rfl
@[simp] theorem takeFault_ctrl (c : FaultCode) (s : State) : (takeFault c s).ctrl = s.ctrl := rfl
@[simp] theorem takeFault_busy (c : FaultCode) (s : State) : (takeFault c s).busy = false := rfl
@[simp] theorem takeFault_done (c : FaultCode) (s : State) : (takeFault c s).done = s.done := rfl
@[simp] theorem takeFault_fault (c : FaultCode) (s : State) : (takeFault c s).fault = true := rfl
@[simp] theorem takeFault_hosterr (c : FaultCode) (s : State) : (takeFault c s).hosterr = s.hosterr := rfl
@[simp] theorem takeFault_mlstate (c : FaultCode) (s : State) : (takeFault c s).mlstate = s.mlPrev := rfl
@[simp] theorem takeFault_fcode (c : FaultCode) (s : State) : (takeFault c s).fcode = faultCode c := rfl
@[simp] theorem takeFault_fcmd (c : FaultCode) (s : State) : (takeFault c s).fcmd = s.pend := rfl
@[simp] theorem takeFault_pend (c : FaultCode) (s : State) : (takeFault c s).pend = s.pend := rfl
@[simp] theorem takeFault_mlPrev (c : FaultCode) (s : State) : (takeFault c s).mlPrev = s.mlPrev := rfl
@[simp] theorem takeFault_hrdata (c : FaultCode) (s : State) : (takeFault c s).hrdata = s.hrdata := rfl
@[simp] theorem takeFault_inputs (c : FaultCode) (s : State) : (takeFault c s).inputs = s.inputs := rfl

/-! `complete`. -/

@[simp] theorem complete_cfg (s : State) : (complete s).cfg = s.cfg := rfl
@[simp] theorem complete_f (s : State) : (complete s).f = s.f := rfl
@[simp] theorem complete_fv (s : State) : (complete s).fv = s.fv := rfl
@[simp] theorem complete_k (s : State) : (complete s).k = s.k := rfl
@[simp] theorem complete_kv (s : State) : (complete s).kv = s.kv := rfl
@[simp] theorem complete_cm (s : State) : (complete s).cm = s.cm := rfl
@[simp] theorem complete_cmv (s : State) : (complete s).cmv = s.cmv := rfl
@[simp] theorem complete_t (s : State) : (complete s).t = s.t := rfl
@[simp] theorem complete_xmem (s : State) : (complete s).xmem = s.xmem := rfl
@[simp] theorem complete_ctrl (s : State) : (complete s).ctrl = s.ctrl := rfl
@[simp] theorem complete_busy (s : State) : (complete s).busy = false := rfl
@[simp] theorem complete_done (s : State) : (complete s).done = true := rfl
@[simp] theorem complete_fault (s : State) : (complete s).fault = s.fault := rfl
@[simp] theorem complete_hosterr (s : State) : (complete s).hosterr = s.hosterr := rfl
@[simp] theorem complete_mlstate (s : State) : (complete s).mlstate = s.mlstate := rfl
@[simp] theorem complete_fcode (s : State) : (complete s).fcode = s.fcode := rfl
@[simp] theorem complete_fcmd (s : State) : (complete s).fcmd = s.fcmd := rfl
@[simp] theorem complete_pend (s : State) : (complete s).pend = s.pend := rfl
@[simp] theorem complete_mlPrev (s : State) : (complete s).mlPrev = s.mlPrev := rfl
@[simp] theorem complete_hrdata (s : State) : (complete s).hrdata = s.hrdata := rfl
@[simp] theorem complete_inputs (s : State) : (complete s).inputs = s.inputs := rfl

/-! `ignoredWrite`. -/

@[simp] theorem ignoredWrite_cfg (s : State) : (ignoredWrite s).cfg = s.cfg := rfl
@[simp] theorem ignoredWrite_f (s : State) : (ignoredWrite s).f = s.f := rfl
@[simp] theorem ignoredWrite_fv (s : State) : (ignoredWrite s).fv = s.fv := rfl
@[simp] theorem ignoredWrite_k (s : State) : (ignoredWrite s).k = s.k := rfl
@[simp] theorem ignoredWrite_kv (s : State) : (ignoredWrite s).kv = s.kv := rfl
@[simp] theorem ignoredWrite_cm (s : State) : (ignoredWrite s).cm = s.cm := rfl
@[simp] theorem ignoredWrite_cmv (s : State) : (ignoredWrite s).cmv = s.cmv := rfl
@[simp] theorem ignoredWrite_t (s : State) : (ignoredWrite s).t = s.t := rfl
@[simp] theorem ignoredWrite_xmem (s : State) : (ignoredWrite s).xmem = s.xmem := rfl
@[simp] theorem ignoredWrite_ctrl (s : State) : (ignoredWrite s).ctrl = s.ctrl := rfl
@[simp] theorem ignoredWrite_busy (s : State) : (ignoredWrite s).busy = s.busy := rfl
@[simp] theorem ignoredWrite_done (s : State) : (ignoredWrite s).done = s.done := rfl
@[simp] theorem ignoredWrite_fault (s : State) : (ignoredWrite s).fault = s.fault := rfl
@[simp] theorem ignoredWrite_hosterr (s : State) : (ignoredWrite s).hosterr = true := rfl
@[simp] theorem ignoredWrite_mlstate (s : State) : (ignoredWrite s).mlstate = s.mlstate := rfl
@[simp] theorem ignoredWrite_fcode (s : State) : (ignoredWrite s).fcode = s.fcode := rfl
@[simp] theorem ignoredWrite_fcmd (s : State) : (ignoredWrite s).fcmd = s.fcmd := rfl
@[simp] theorem ignoredWrite_pend (s : State) : (ignoredWrite s).pend = s.pend := rfl
@[simp] theorem ignoredWrite_mlPrev (s : State) : (ignoredWrite s).mlPrev = s.mlPrev := rfl
@[simp] theorem ignoredWrite_hrdata (s : State) : (ignoredWrite s).hrdata = s.hrdata := rfl
@[simp] theorem ignoredWrite_inputs (s : State) : (ignoredWrite s).inputs = s.inputs := rfl

/-! `hostRead`. -/

@[simp] theorem hostRead_cfg (s : State) (h : BitVec 11) : (hostRead s h).cfg = s.cfg := rfl
@[simp] theorem hostRead_f (s : State) (h : BitVec 11) : (hostRead s h).f = s.f := rfl
@[simp] theorem hostRead_fv (s : State) (h : BitVec 11) : (hostRead s h).fv = s.fv := rfl
@[simp] theorem hostRead_k (s : State) (h : BitVec 11) : (hostRead s h).k = s.k := rfl
@[simp] theorem hostRead_kv (s : State) (h : BitVec 11) : (hostRead s h).kv = s.kv := rfl
@[simp] theorem hostRead_cm (s : State) (h : BitVec 11) : (hostRead s h).cm = s.cm := rfl
@[simp] theorem hostRead_cmv (s : State) (h : BitVec 11) : (hostRead s h).cmv = s.cmv := rfl
@[simp] theorem hostRead_t (s : State) (h : BitVec 11) : (hostRead s h).t = s.t := rfl
@[simp] theorem hostRead_xmem (s : State) (h : BitVec 11) : (hostRead s h).xmem = s.xmem := rfl
@[simp] theorem hostRead_ctrl (s : State) (h : BitVec 11) : (hostRead s h).ctrl = s.ctrl := rfl
@[simp] theorem hostRead_busy (s : State) (h : BitVec 11) : (hostRead s h).busy = s.busy := rfl
@[simp] theorem hostRead_done (s : State) (h : BitVec 11) : (hostRead s h).done = s.done := rfl
@[simp] theorem hostRead_fault (s : State) (h : BitVec 11) : (hostRead s h).fault = s.fault := rfl
@[simp] theorem hostRead_hosterr (s : State) (h : BitVec 11) : (hostRead s h).hosterr = s.hosterr := rfl
@[simp] theorem hostRead_mlstate (s : State) (h : BitVec 11) : (hostRead s h).mlstate = s.mlstate := rfl
@[simp] theorem hostRead_fcode (s : State) (h : BitVec 11) : (hostRead s h).fcode = s.fcode := rfl
@[simp] theorem hostRead_fcmd (s : State) (h : BitVec 11) : (hostRead s h).fcmd = s.fcmd := rfl
@[simp] theorem hostRead_pend (s : State) (h : BitVec 11) : (hostRead s h).pend = s.pend := rfl
@[simp] theorem hostRead_mlPrev (s : State) (h : BitVec 11) : (hostRead s h).mlPrev = s.mlPrev := rfl
@[simp] theorem hostRead_hrdata (s : State) (h : BitVec 11) : (hostRead s h).hrdata = hostReadWord s h := rfl
@[simp] theorem hostRead_inputs (s : State) (h : BitVec 11) : (hostRead s h).inputs = s.inputs := rfl

/-! `accept`. -/

@[simp] theorem accept_cfg (s : State) (w : Word) : (accept s w).cfg = s.cfg := rfl
@[simp] theorem accept_f (s : State) (w : Word) : (accept s w).f = s.f := rfl
@[simp] theorem accept_fv (s : State) (w : Word) : (accept s w).fv = s.fv := rfl
@[simp] theorem accept_k (s : State) (w : Word) : (accept s w).k = s.k := rfl
@[simp] theorem accept_kv (s : State) (w : Word) : (accept s w).kv = s.kv := rfl
@[simp] theorem accept_cm (s : State) (w : Word) : (accept s w).cm = s.cm := rfl
@[simp] theorem accept_cmv (s : State) (w : Word) : (accept s w).cmv = s.cmv := rfl
@[simp] theorem accept_t (s : State) (w : Word) : (accept s w).t = s.t := rfl
@[simp] theorem accept_xmem (s : State) (w : Word) : (accept s w).xmem = s.xmem := rfl
@[simp] theorem accept_ctrl (s : State) (w : Word) : (accept s w).ctrl = s.ctrl := rfl
@[simp] theorem accept_busy (s : State) (w : Word) : (accept s w).busy = true := rfl
@[simp] theorem accept_done (s : State) (w : Word) : (accept s w).done = false := rfl
@[simp] theorem accept_fault (s : State) (w : Word) : (accept s w).fault = s.fault := rfl
@[simp] theorem accept_hosterr (s : State) (w : Word) : (accept s w).hosterr = s.hosterr := rfl
@[simp] theorem accept_mlstate (s : State) (w : Word) : (accept s w).mlstate = if isMillerOpcode (w.extractLsb' 24 8) then .accumulating else s.mlstate := rfl
@[simp] theorem accept_fcode (s : State) (w : Word) : (accept s w).fcode = s.fcode := rfl
@[simp] theorem accept_fcmd (s : State) (w : Word) : (accept s w).fcmd = s.fcmd := rfl
@[simp] theorem accept_pend (s : State) (w : Word) : (accept s w).pend = w := rfl
@[simp] theorem accept_mlPrev (s : State) (w : Word) : (accept s w).mlPrev = s.mlstate := rfl
@[simp] theorem accept_hrdata (s : State) (w : Word) : (accept s w).hrdata = s.hrdata := rfl
@[simp] theorem accept_inputs (s : State) (w : Word) : (accept s w).inputs = s.inputs := rfl

/-! `setCells` and `setValues`. -/

@[simp] theorem setCells_cfg (s : State) (b : Nat) (vs : List Nat) : (setCells s b vs).cfg = s.cfg := by
  induction vs generalizing s b with
  | nil => rfl
  | cons v vs ih => simp [setCells, ih]

@[simp] theorem setValues_cfg (s : State) (b : Nat) (vs : List Nat) : (setValues s b vs).cfg = s.cfg :=
  setCells_cfg _ _ _

@[simp] theorem setCells_k (s : State) (b : Nat) (vs : List Nat) : (setCells s b vs).k = s.k := by
  induction vs generalizing s b with
  | nil => rfl
  | cons v vs ih => simp [setCells, ih]

@[simp] theorem setValues_k (s : State) (b : Nat) (vs : List Nat) : (setValues s b vs).k = s.k :=
  setCells_k _ _ _

@[simp] theorem setCells_kv (s : State) (b : Nat) (vs : List Nat) : (setCells s b vs).kv = s.kv := by
  induction vs generalizing s b with
  | nil => rfl
  | cons v vs ih => simp [setCells, ih]

@[simp] theorem setValues_kv (s : State) (b : Nat) (vs : List Nat) : (setValues s b vs).kv = s.kv :=
  setCells_kv _ _ _

@[simp] theorem setCells_cm (s : State) (b : Nat) (vs : List Nat) : (setCells s b vs).cm = s.cm := by
  induction vs generalizing s b with
  | nil => rfl
  | cons v vs ih => simp [setCells, ih]

@[simp] theorem setValues_cm (s : State) (b : Nat) (vs : List Nat) : (setValues s b vs).cm = s.cm :=
  setCells_cm _ _ _

@[simp] theorem setCells_cmv (s : State) (b : Nat) (vs : List Nat) : (setCells s b vs).cmv = s.cmv := by
  induction vs generalizing s b with
  | nil => rfl
  | cons v vs ih => simp [setCells, ih]

@[simp] theorem setValues_cmv (s : State) (b : Nat) (vs : List Nat) : (setValues s b vs).cmv = s.cmv :=
  setCells_cmv _ _ _

@[simp] theorem setCells_t (s : State) (b : Nat) (vs : List Nat) : (setCells s b vs).t = s.t := by
  induction vs generalizing s b with
  | nil => rfl
  | cons v vs ih => simp [setCells, ih]

@[simp] theorem setValues_t (s : State) (b : Nat) (vs : List Nat) : (setValues s b vs).t = s.t :=
  setCells_t _ _ _

@[simp] theorem setCells_xmem (s : State) (b : Nat) (vs : List Nat) : (setCells s b vs).xmem = s.xmem := by
  induction vs generalizing s b with
  | nil => rfl
  | cons v vs ih => simp [setCells, ih]

@[simp] theorem setValues_xmem (s : State) (b : Nat) (vs : List Nat) : (setValues s b vs).xmem = s.xmem :=
  setCells_xmem _ _ _

@[simp] theorem setCells_ctrl (s : State) (b : Nat) (vs : List Nat) : (setCells s b vs).ctrl = s.ctrl := by
  induction vs generalizing s b with
  | nil => rfl
  | cons v vs ih => simp [setCells, ih]

@[simp] theorem setValues_ctrl (s : State) (b : Nat) (vs : List Nat) : (setValues s b vs).ctrl = s.ctrl :=
  setCells_ctrl _ _ _

@[simp] theorem setCells_busy (s : State) (b : Nat) (vs : List Nat) : (setCells s b vs).busy = s.busy := by
  induction vs generalizing s b with
  | nil => rfl
  | cons v vs ih => simp [setCells, ih]

@[simp] theorem setValues_busy (s : State) (b : Nat) (vs : List Nat) : (setValues s b vs).busy = s.busy :=
  setCells_busy _ _ _

@[simp] theorem setCells_done (s : State) (b : Nat) (vs : List Nat) : (setCells s b vs).done = s.done := by
  induction vs generalizing s b with
  | nil => rfl
  | cons v vs ih => simp [setCells, ih]

@[simp] theorem setValues_done (s : State) (b : Nat) (vs : List Nat) : (setValues s b vs).done = s.done :=
  setCells_done _ _ _

@[simp] theorem setCells_fault (s : State) (b : Nat) (vs : List Nat) : (setCells s b vs).fault = s.fault := by
  induction vs generalizing s b with
  | nil => rfl
  | cons v vs ih => simp [setCells, ih]

@[simp] theorem setValues_fault (s : State) (b : Nat) (vs : List Nat) : (setValues s b vs).fault = s.fault :=
  setCells_fault _ _ _

@[simp] theorem setCells_hosterr (s : State) (b : Nat) (vs : List Nat) : (setCells s b vs).hosterr = s.hosterr := by
  induction vs generalizing s b with
  | nil => rfl
  | cons v vs ih => simp [setCells, ih]

@[simp] theorem setValues_hosterr (s : State) (b : Nat) (vs : List Nat) : (setValues s b vs).hosterr = s.hosterr :=
  setCells_hosterr _ _ _

@[simp] theorem setCells_mlstate (s : State) (b : Nat) (vs : List Nat) : (setCells s b vs).mlstate = s.mlstate := by
  induction vs generalizing s b with
  | nil => rfl
  | cons v vs ih => simp [setCells, ih]

@[simp] theorem setValues_mlstate (s : State) (b : Nat) (vs : List Nat) : (setValues s b vs).mlstate = s.mlstate :=
  setCells_mlstate _ _ _

@[simp] theorem setCells_fcode (s : State) (b : Nat) (vs : List Nat) : (setCells s b vs).fcode = s.fcode := by
  induction vs generalizing s b with
  | nil => rfl
  | cons v vs ih => simp [setCells, ih]

@[simp] theorem setValues_fcode (s : State) (b : Nat) (vs : List Nat) : (setValues s b vs).fcode = s.fcode :=
  setCells_fcode _ _ _

@[simp] theorem setCells_fcmd (s : State) (b : Nat) (vs : List Nat) : (setCells s b vs).fcmd = s.fcmd := by
  induction vs generalizing s b with
  | nil => rfl
  | cons v vs ih => simp [setCells, ih]

@[simp] theorem setValues_fcmd (s : State) (b : Nat) (vs : List Nat) : (setValues s b vs).fcmd = s.fcmd :=
  setCells_fcmd _ _ _

@[simp] theorem setCells_pend (s : State) (b : Nat) (vs : List Nat) : (setCells s b vs).pend = s.pend := by
  induction vs generalizing s b with
  | nil => rfl
  | cons v vs ih => simp [setCells, ih]

@[simp] theorem setValues_pend (s : State) (b : Nat) (vs : List Nat) : (setValues s b vs).pend = s.pend :=
  setCells_pend _ _ _

@[simp] theorem setCells_mlPrev (s : State) (b : Nat) (vs : List Nat) : (setCells s b vs).mlPrev = s.mlPrev := by
  induction vs generalizing s b with
  | nil => rfl
  | cons v vs ih => simp [setCells, ih]

@[simp] theorem setValues_mlPrev (s : State) (b : Nat) (vs : List Nat) : (setValues s b vs).mlPrev = s.mlPrev :=
  setCells_mlPrev _ _ _

@[simp] theorem setCells_hrdata (s : State) (b : Nat) (vs : List Nat) : (setCells s b vs).hrdata = s.hrdata := by
  induction vs generalizing s b with
  | nil => rfl
  | cons v vs ih => simp [setCells, ih]

@[simp] theorem setValues_hrdata (s : State) (b : Nat) (vs : List Nat) : (setValues s b vs).hrdata = s.hrdata :=
  setCells_hrdata _ _ _

@[simp] theorem setCells_inputs (s : State) (b : Nat) (vs : List Nat) : (setCells s b vs).inputs = s.inputs := by
  induction vs generalizing s b with
  | nil => rfl
  | cons v vs ih => simp [setCells, ih]

@[simp] theorem setValues_inputs (s : State) (b : Nat) (vs : List Nat) : (setValues s b vs).inputs = s.inputs :=
  setCells_inputs _ _ _

/-- All that a host write does while BUSY (R391, R53, R48). -/
theorem hostWrite_busy {s : State} (hb : s.busy = true) (h : BitVec 11) (w : Word) :
    hostWrite s h w =
      if h = 2 ∧ w.getLsbD 31 = true then softReset s
      else if 7 ≤ h.toNat ∧ h.toNat < 1024 then s
      else ignoredWrite s := by
  have hw : inWindow h = decide (1024 ≤ h.toNat) :=
    (by decide +kernel : ∀ h : BitVec 11, inWindow h = decide (1024 ≤ h.toNat)) h
  have h2 : h = 2 ↔ h.toNat = 2 := by rw [← BitVec.toNat_inj]; rfl
  unfold hostWrite
  simp only [hw, h2, writeWindow, writeCtrl, writeStatus, writeCmd, writeReadOnly, hb, decide_eq_true_eq,
    Bool.true_or, if_true]
  split
  · rw [if_neg (by omega), if_neg (by omega)]
  · split <;> simp_all
    omega

end Sys2Proof.Machine
end

