-- ==== Sys2Proof/Laws/Cells.lean ====
section
/-! SUPPORT. Reading cells, integer registers and banks after they are written: what is read back, and what
stays (rules R13, R16, R23, R24, R29). -/

namespace Sys2Proof.Machine

/-! Cells. -/

theorem rawCell_setCell (s : State) {i : Nat} (hi : i < 128) (v j : Nat) :
    rawCell (setCell s i v) j = if j = i then v else rawCell s j := by
  by_cases h : j = i
  · subst h; simp [rawCell, hi]
  · simp [rawCell, h, Ne.symm h]

theorem cellValid_setCell (s : State) {i : Nat} (hi : i < 128) (v j : Nat) :
    cellValid (setCell s i v) j = if j = i then true else cellValid s j := by
  by_cases h : j = i
  · subst h; simp [cellValid, hi]
  · simp [cellValid, h, Ne.symm h]

/-- Reading a raw content after consecutive cells are written: the written list inside the span, the old
content outside it. -/
theorem rawCell_setCells (s : State) (b : Nat) (vs : List Nat) (hb : b + vs.length ≤ 128) (j : Nat) :
    rawCell (setCells s b vs) j =
      if b ≤ j ∧ j < b + vs.length then vs.getD (j - b) 0 else rawCell s j := by
  induction vs generalizing s b with
  | nil => simp [setCells, show ¬(b ≤ j ∧ j < b) by omega]
  | cons v vs ih =>
    simp only [List.length_cons] at hb ⊢
    rw [setCells, ih _ _ (by omega), rawCell_setCell _ (by omega)]
    by_cases h1 : b + 1 ≤ j ∧ j < b + 1 + vs.length
    · obtain ⟨m, rfl⟩ : ∃ m, j = b + 1 + m := ⟨j - (b + 1), by omega⟩
      rw [if_pos h1, if_pos (by omega), show b + 1 + m - (b + 1) = m by omega,
        show b + 1 + m - b = m + 1 by omega, List.getD_cons_succ]
    · rw [if_neg h1]
      by_cases h2 : j = b
      · subst h2; simp
      · rw [if_neg h2, if_neg (by omega)]

/-- The valid bits after consecutive cells are written: set inside the span, unchanged outside it. -/
theorem cellValid_setCells (s : State) (b : Nat) (vs : List Nat) (hb : b + vs.length ≤ 128) (j : Nat) :
    cellValid (setCells s b vs) j =
      if b ≤ j ∧ j < b + vs.length then true else cellValid s j := by
  induction vs generalizing s b with
  | nil => simp [setCells, show ¬(b ≤ j ∧ j < b) by omega]
  | cons v vs ih =>
    simp only [List.length_cons] at hb ⊢
    rw [setCells, ih _ _ (by omega), cellValid_setCell _ (by omega)]
    by_cases h1 : b + 1 ≤ j ∧ j < b + 1 + vs.length
    · rw [if_pos h1, if_pos (by omega)]
    · rw [if_neg h1]
      by_cases h2 : j = b
      · subst h2; simp
      · rw [if_neg h2, if_neg (by omega)]

/-- Reading a raw content after canonical values are written (`WrFp`, R13). -/
theorem rawCell_setValues (s : State) (b : Nat) (vs : List Nat) (hb : b + vs.length ≤ 128) (j : Nat) :
    rawCell (setValues s b vs) j =
      if b ≤ j ∧ j < b + vs.length then rep s.cfg (vs.getD (j - b) 0) else rawCell s j := by
  unfold setValues
  rw [rawCell_setCells _ _ _ (by simpa using hb), List.length_map]
  split
  · next h =>
    have hj : j - b < vs.length := by omega
    simp [List.getD_eq_getElem?_getD, List.getElem?_eq_getElem hj]
  · rfl

theorem cellValid_setValues (s : State) (b : Nat) (vs : List Nat) (hb : b + vs.length ≤ 128) (j : Nat) :
    cellValid (setValues s b vs) j =
      if b ≤ j ∧ j < b + vs.length then true else cellValid s j := by
  unfold setValues
  rw [cellValid_setCells _ _ _ (by simpa using hb), List.length_map]

/-- What a canonical value reads as depends on the raw content and the configuration alone. -/
theorem canon_congr {s t : State} (hc : t.cfg = s.cfg) {i : Nat} (h : rawCell t i = rawCell s i) :
    canon t i = canon s i := by
  simp [canon, hc, h]

/-- Cells, and everything read from them, do not see the fields that completion and fault entry write. -/
@[simp] theorem rawCell_complete (s : State) (i : Nat) : rawCell (complete s) i = rawCell s i := rfl
@[simp] theorem cellValid_complete (s : State) (i : Nat) : cellValid (complete s) i = cellValid s i := rfl
@[simp] theorem canon_complete (s : State) (i : Nat) : canon (complete s) i = canon s i := rfl
@[simp] theorem rawCell_setT (s : State) (b : Bool) (i : Nat) : rawCell (setT s b) i = rawCell s i := rfl
@[simp] theorem cellValid_setT (s : State) (b : Bool) (i : Nat) : cellValid (setT s b) i = cellValid s i := rfl
@[simp] theorem rawCell_setMl (s : State) (m : MLState) (i : Nat) : rawCell (setMl s m) i = rawCell s i := rfl
@[simp] theorem cellValid_setMl (s : State) (m : MLState) (i : Nat) :
    cellValid (setMl s m) i = cellValid s i := rfl
@[simp] theorem canon_setMl (s : State) (m : MLState) (i : Nat) : canon (setMl s m) i = canon s i := rfl
@[simp] theorem rawCell_setK (s : State) (r : KIdx) (v i : Nat) : rawCell (setK s r v) i = rawCell s i := rfl
@[simp] theorem cellValid_setK (s : State) (r : KIdx) (v i : Nat) :
    cellValid (setK s r v) i = cellValid s i := rfl
@[simp] theorem rawCell_setBank (s : State) (b : BankIdx) (B : Bank) (i : Nat) :
    rawCell (setBank s b B) i = rawCell s i := rfl
@[simp] theorem cellValid_setBank (s : State) (b : BankIdx) (B : Bank) (i : Nat) :
    cellValid (setBank s b B) i = cellValid s i := rfl
@[simp] theorem canon_setBank (s : State) (b : BankIdx) (B : Bank) (i : Nat) :
    canon (setBank s b B) i = canon s i := rfl

/-! Integer registers. -/

theorem kReg_setK (s : State) (i j : KIdx) (v : Nat) :
    kReg (setK s i v) j = if j = i then v % 2 ^ 768 else kReg s j := by
  by_cases h : j = i
  · subst h; simp [kReg]
  · have : i.toNat ≠ j.toNat := fun e => h (BitVec.eq_of_toNat_eq e.symm)
    simp [kReg, h, Vector.getElem_set_ne _ _ this]

theorem kValid_setK (s : State) (i j : KIdx) (v : Nat) :
    kValid (setK s i v) j = if j = i then true else kValid s j := by
  by_cases h : j = i
  · subst h; simp [kValid]
  · have : i.toNat ≠ j.toNat := fun e => h (BitVec.eq_of_toNat_eq e.symm)
    simp [kValid, h, Vector.getElem_set_ne _ _ this]

/-! Banks. -/

theorem bank_setBank (s : State) (b d : BankIdx) (B : Bank) :
    bank (setBank s b B) d = if d = b then B else bank s d := by
  by_cases h : d = b
  · subst h; simp [bank]
  · have : b.toNat ≠ d.toNat := fun e => h (BitVec.eq_of_toNat_eq e.symm)
    simp [bank, h, Vector.getElem_set_ne _ _ this]

theorem bankValid_setBank (s : State) (b d : BankIdx) (B : Bank) :
    bankValid (setBank s b B) d = if d = b then true else bankValid s d := by
  by_cases h : d = b
  · subst h; simp [bankValid]
  · have : b.toNat ≠ d.toNat := fun e => h (BitVec.eq_of_toNat_eq e.symm)
    simp [bankValid, h, Vector.getElem_set_ne _ _ this]

end Sys2Proof.Machine
end

