-- ==== Sys2Proof/Laws/Commands.lean ====
section
/-! SUPPORT. Everything a command can do (rules R68, R92, R385): the checks in their order, fault entry, or its
writes with completion. -/

namespace Sys2Proof.Machine

theorem spanFits_iff (sp : Nat × Nat) : spanFits sp = true ↔ sp.1 + sp.2 ≤ 128 := by
  unfold spanFits
  exact decide_eq_true_iff

theorem spanValid_iff (s : State) (sp : Nat × Nat) :
    spanValid s sp = true ↔ ∀ i < sp.2, cellValid s (sp.1 + i) = true := by
  simp [spanValid]

theorem sourcesValid_iff (n : Needs) (s : State) :
    sourcesValid n s = true ↔
      (∀ sp ∈ n.src, ∀ i < sp.2, cellValid s (sp.1 + i) = true) ∧ (∀ r ∈ n.regs, kValid s r = true) ∧
      (∀ b ∈ n.banks, bankValid s b = true) := by
  simp only [sourcesValid, Bool.and_eq_true, List.all_eq_true, spanValid_iff, and_assoc]

theorem spansFit_iff (n : Needs) :
    (n.dst ++ n.src).all spanFits = true ↔ ∀ sp ∈ n.dst ++ n.src, sp.1 + sp.2 ≤ 128 := by
  simp only [List.all_eq_true, spanFits_iff]

/-- The checks pass exactly when the unit is present, every span fits and every source is valid (R92). -/
theorem checkNeeds_none_iff (n : Needs) (s : State) :
    checkNeeds n s = none ↔
      n.feature = true ∧ (∀ sp ∈ n.dst ++ n.src, sp.1 + sp.2 ≤ 128) ∧ sourcesValid n s = true := by
  rw [← spansFit_iff]
  unfold checkNeeds
  cases n.feature <;> cases (n.dst ++ n.src).all spanFits <;> cases sourcesValid n s <;> simp

/-- The check that fails first (R92, R372). -/
theorem checkNeeds_cases (n : Needs) (s : State) :
    (n.feature = false ∧ checkNeeds n s = some .unsupp) ∨
    (n.feature = true ∧ (¬∀ sp ∈ n.dst ++ n.src, sp.1 + sp.2 ≤ 128) ∧ checkNeeds n s = some .regrange) ∨
    (n.feature = true ∧ (∀ sp ∈ n.dst ++ n.src, sp.1 + sp.2 ≤ 128) ∧ sourcesValid n s = false ∧
      checkNeeds n s = some .uninit) ∨
    checkNeeds n s = none := by
  rw [← spansFit_iff]
  unfold checkNeeds
  cases n.feature <;> cases (n.dst ++ n.src).all spanFits <;> cases sourcesValid n s <;> simp

/-- Everything a command can do: a check fails and it faults, its own rule faults, or its rule's writes happen
and it completes. -/
theorem command_cases (n : Needs) (act : State → Result) (s : State) :
    (∃ c, checkNeeds n s = some c ∧ command n act s = .next (takeFault c s)) ∨
    (checkNeeds n s = none ∧ ∃ c, act s = .error c ∧ command n act s = .next (takeFault c s)) ∨
    (checkNeeds n s = none ∧ ∃ t, act s = .ok t ∧ command n act s = .next (complete t)) := by
  unfold command
  cases h : checkNeeds n s with
  | some c => exact .inl ⟨c, rfl, rfl⟩
  | none =>
    refine .inr ?_
    cases ha : act s with
    | error c => exact .inl ⟨rfl, c, rfl, rfl⟩
    | ok t => exact .inr ⟨rfl, t, rfl, rfl⟩

/-- A command whose checks pass and whose rule answers `t` completes with `t`'s writes. -/
theorem command_ok {n : Needs} {act : State → Result} {s t : State} (h : checkNeeds n s = none)
    (ha : act s = .ok t) : command n act s = .next (complete t) := by
  simp [command, h, ha, finish]

/-- A command whose checks pass and whose rule raises `c` takes the fault. -/
theorem command_error {n : Needs} {act : State → Result} {s : State} {c : FaultCode}
    (h : checkNeeds n s = none) (ha : act s = .error c) : command n act s = .next (takeFault c s) := by
  simp [command, h, ha, finish]

/-- A command whose check raises `c` takes the fault. -/
theorem command_check {n : Needs} {act : State → Result} {s : State} {c : FaultCode}
    (h : checkNeeds n s = some c) : command n act s = .next (takeFault c s) := by
  simp [command, h]

/-- Every command answers a next state. -/
theorem command_next (n : Needs) (act : State → Result) (s : State) : ∃ t, command n act s = .next t := by
  rcases command_cases n act s with ⟨c, _, h⟩ | ⟨_, c, _, h⟩ | ⟨_, t, _, h⟩ <;> exact ⟨_, h⟩

end Sys2Proof.Machine
end

