-- ==== Sys2Proof/Laws/Fields.lean ====
section
/-! SUPPORT. The operations of Machine/Field.lean seen in the quotient rings of Safety/Rings.lean: each level of
the tower is a faithful copy of its ring (rules R140, R180, R200, R220, R221, R240). -/

namespace Sys2Proof.Machine

open Polynomial

/-- The operations `K` compute in the ring `A`: `φ` reads an element, `ok` says that its coordinates are
canonical, results are canonical whatever the operands, and on canonical elements `φ` is injective. -/
structure FldModel {α : Type} (K : Fld α) (A : Type) [CommRing A] (φ : α → A) (ok : α → Prop) : Prop where
  zero_ok : ok K.zero
  one_ok : ok K.one
  add_ok : ∀ a b, ok (K.add a b)
  sub_ok : ∀ a b, ok (K.sub a b)
  mul_ok : ∀ a b, ok (K.mul a b)
  neg_ok : ∀ a, ok (K.neg a)
  map_zero : φ K.zero = 0
  map_one : φ K.one = 1
  map_add : ∀ a b, φ (K.add a b) = φ a + φ b
  map_sub : ∀ a b, φ (K.sub a b) = φ a - φ b
  map_mul : ∀ a b, φ (K.mul a b) = φ a * φ b
  map_neg : ∀ a, φ (K.neg a) = -φ a
  inj : ∀ a b, ok a → ok b → φ a = φ b → a = b

namespace FldModel

variable {α : Type} {K : Fld α} {A : Type} [CommRing A] {φ : α → A} {ok : α → Prop}

theorem eq_iff (h : FldModel K A φ ok) {a b : α} (ha : ok a) (hb : ok b) : a = b ↔ φ a = φ b :=
  ⟨fun e => e ▸ rfl, h.inj a b ha hb⟩

theorem eq_zero_iff (h : FldModel K A φ ok) {a : α} (ha : ok a) : a = K.zero ↔ φ a = 0 := by
  rw [h.eq_iff ha h.zero_ok, h.map_zero]

theorem map_sqr (h : FldModel K A φ ok) (a : α) : φ (K.sqr a) = φ a ^ 2 := by
  rw [Fld.sqr, h.map_mul, pow_two]

theorem map_dbl (h : FldModel K A φ ok) (a : α) : φ (K.dbl a) = 2 * φ a := by
  rw [Fld.dbl, h.map_add, two_mul]

theorem map_tpl (h : FldModel K A φ ok) (a : α) : φ (K.tpl a) = 3 * φ a := by
  rw [Fld.tpl, h.map_add, h.map_dbl]; ring

theorem map_quadruple (h : FldModel K A φ ok) (a : α) : φ (K.quadruple a) = 4 * φ a := by
  rw [Fld.quadruple, h.map_dbl, h.map_dbl]; ring

theorem map_octuple (h : FldModel K A φ ok) (a : α) : φ (K.octuple a) = 8 * φ a := by
  rw [Fld.octuple, h.map_dbl, h.map_dbl, h.map_dbl]; ring

theorem map_pow (h : FldModel K A φ ok) (a : α) (e : Nat) : φ (K.pow a e) = φ a ^ e :=
  powLoop_one h.map_mul a e h.map_one

theorem sqr_ok (h : FldModel K A φ ok) (a : α) : ok (K.sqr a) := h.mul_ok _ _
theorem dbl_ok (h : FldModel K A φ ok) (a : α) : ok (K.dbl a) := h.add_ok _ _
theorem tpl_ok (h : FldModel K A φ ok) (a : α) : ok (K.tpl a) := h.add_ok _ _

end FldModel

/-! The base field. -/

theorem fpModel {p : Nat} (hp : 1 < p) : FldModel (fpOps p) (ZMod p) (fun x => (x : ZMod p)) (· < p) where
  zero_ok := Nat.zero_lt_of_lt hp
  one_ok := Nat.mod_lt _ (Nat.zero_lt_of_lt hp)
  add_ok _ _ := Nat.mod_lt _ (Nat.zero_lt_of_lt hp)
  sub_ok _ _ := Nat.mod_lt _ (Nat.zero_lt_of_lt hp)
  mul_ok _ _ := Nat.mod_lt _ (Nat.zero_lt_of_lt hp)
  neg_ok _ := Nat.mod_lt _ (Nat.zero_lt_of_lt hp)
  map_zero := by simp [fpOps]
  map_one := by simp [fpOps]
  map_add a b := by simp [fpOps]
  map_sub a b := by
    have : b % p ≤ p := (Nat.mod_lt _ (Nat.zero_lt_of_lt hp)).le
    simp [fpOps, Nat.cast_sub this]; ring
  map_mul a b := by simp [fpOps]
  map_neg a := by
    have : a % p ≤ p := (Nat.mod_lt _ (Nat.zero_lt_of_lt hp)).le
    simp [fpOps, Nat.cast_sub this]
  inj a b ha hb h := by
    rw [ZMod.natCast_eq_natCast_iff'] at h
    rwa [Nat.mod_eq_of_lt ha, Nat.mod_eq_of_lt hb] at h

/-! Roots. -/

section Roots

variable {A : Type} [CommRing A]

theorem root_pow {n : Nat} (N : A) :
    AdjoinRoot.root (X ^ n - C N) ^ n = AdjoinRoot.of (X ^ n - C N) N := by
  have h := AdjoinRoot.eval₂_root (X ^ n - C N)
  simpa [sub_eq_zero] using h

theorem mk_injective_of_degree_lt [Nontrivial A] {n : Nat} (hn : n ≠ 0) (N : A) {f g : A[X]}
    (hf : f.degree < n) (hg : g.degree < n)
    (h : AdjoinRoot.mk (X ^ n - C N) f = AdjoinRoot.mk (X ^ n - C N) g) : f = g := by
  rw [AdjoinRoot.mk_eq_mk] at h
  by_contra hne
  refine (monic_X_pow_sub_C N hn).not_dvd_of_degree_lt (sub_ne_zero.2 hne) ?_ h
  rw [degree_X_pow_sub_C (Nat.pos_of_ne_zero hn)]
  exact lt_of_le_of_lt (degree_sub_le _ _) (max_lt hf hg)

end Roots

/-! A quadratic and a cubic extension. -/

/-- An element of a quadratic extension in its ring. -/
noncomputable def quadMap {α A : Type} [CommRing A] (φ : α → A) (N : A) (a : Quad α) :
    AdjoinRoot (X ^ 2 - C N) :=
  AdjoinRoot.of _ (φ a.c0) + AdjoinRoot.of _ (φ a.c1) * AdjoinRoot.root _

/-- An element of a cubic extension in its ring. -/
noncomputable def cubMap {α A : Type} [CommRing A] (φ : α → A) (N : A) (a : Cub α) :
    AdjoinRoot (X ^ 3 - C N) :=
  AdjoinRoot.of _ (φ a.c0) + AdjoinRoot.of _ (φ a.c1) * AdjoinRoot.root _ +
    AdjoinRoot.of _ (φ a.c2) * AdjoinRoot.root _ ^ 2

section Extensions

variable {α : Type} {K : Fld α} {A : Type} [CommRing A] {φ : α → A} {ok : α → Prop}

theorem quadModel [Nontrivial A] (h : FldModel K A φ ok) (p : Nat) (N : α) :
    FldModel (quadExt p K N) (AdjoinRoot (X ^ 2 - C (φ N))) (quadMap φ (φ N))
      (fun a => ok a.c0 ∧ ok a.c1) where
  zero_ok := ⟨h.zero_ok, h.zero_ok⟩
  one_ok := ⟨h.one_ok, h.zero_ok⟩
  add_ok _ _ := ⟨h.add_ok _ _, h.add_ok _ _⟩
  sub_ok _ _ := ⟨h.sub_ok _ _, h.sub_ok _ _⟩
  mul_ok _ _ := ⟨h.add_ok _ _, h.add_ok _ _⟩
  neg_ok _ := ⟨h.neg_ok _, h.neg_ok _⟩
  map_zero := by simp [quadMap, quadExt, h.map_zero]
  map_one := by simp [quadMap, quadExt, h.map_zero, h.map_one]
  map_add a b := by simp [quadMap, quadExt, h.map_add]; ring
  map_sub a b := by simp [quadMap, quadExt, h.map_sub]; ring
  map_mul a b := by
    simp only [quadMap, quadExt, h.map_add, h.map_mul, map_add, map_mul, ← root_pow (n := 2) (φ N)]
    ring
  map_neg a := by simp [quadMap, quadExt, h.map_neg]; ring
  inj a b ha hb e := by
    have key : ∀ c : Quad α, quadMap φ (φ N) c =
        AdjoinRoot.mk (X ^ 2 - C (φ N)) (C (φ c.c1) * X + C (φ c.c0)) := by
      intro c; simp [quadMap]; ring
    rw [key, key] at e
    have hd : ∀ c : Quad α, (C (φ c.c1) * X + C (φ c.c0)).degree < ((2 : Nat) : WithBot Nat) := fun c =>
      degree_linear_lt
    have hp := mk_injective_of_degree_lt (by decide) _ (hd a) (hd b) e
    have h0 := congrArg (fun f => f.coeff 0) hp
    have h1 := congrArg (fun f => f.coeff 1) hp
    simp at h0 h1
    cases a; cases b
    simp only [Quad.mk.injEq]
    exact ⟨h.inj _ _ ha.1 hb.1 h0, h.inj _ _ ha.2 hb.2 h1⟩

theorem cubModel [Nontrivial A] (h : FldModel K A φ ok) (p : Nat) (N : α) :
    FldModel (cubExt p K N) (AdjoinRoot (X ^ 3 - C (φ N))) (cubMap φ (φ N))
      (fun a => ok a.c0 ∧ ok a.c1 ∧ ok a.c2) where
  zero_ok := ⟨h.zero_ok, h.zero_ok, h.zero_ok⟩
  one_ok := ⟨h.one_ok, h.zero_ok, h.zero_ok⟩
  add_ok _ _ := ⟨h.add_ok _ _, h.add_ok _ _, h.add_ok _ _⟩
  sub_ok _ _ := ⟨h.sub_ok _ _, h.sub_ok _ _, h.sub_ok _ _⟩
  mul_ok _ _ := ⟨h.add_ok _ _, h.add_ok _ _, h.add_ok _ _⟩
  neg_ok _ := ⟨h.neg_ok _, h.neg_ok _, h.neg_ok _⟩
  map_zero := by simp [cubMap, cubExt, h.map_zero]
  map_one := by simp [cubMap, cubExt, h.map_zero, h.map_one]
  map_add a b := by simp [cubMap, cubExt, h.map_add]; ring
  map_sub a b := by simp [cubMap, cubExt, h.map_sub]; ring
  map_mul a b := by
    simp only [cubMap, cubExt, h.map_add, h.map_mul, map_add, map_mul, ← root_pow (n := 3) (φ N)]
    ring
  map_neg a := by simp [cubMap, cubExt, h.map_neg]; ring
  inj a b ha hb e := by
    have key : ∀ c : Cub α, cubMap φ (φ N) c = AdjoinRoot.mk (X ^ 3 - C (φ N))
        (C (φ c.c2) * X ^ 2 + C (φ c.c1) * X + C (φ c.c0)) := by
      intro c; simp [cubMap]; ring
    rw [key, key] at e
    have hd : ∀ c : Cub α, (C (φ c.c2) * X ^ 2 + C (φ c.c1) * X + C (φ c.c0)).degree <
        ((3 : Nat) : WithBot Nat) := fun c => degree_quadratic_lt
    have hp := mk_injective_of_degree_lt (by decide) _ (hd a) (hd b) e
    have h0 := congrArg (fun f => f.coeff 0) hp
    have h1 := congrArg (fun f => f.coeff 1) hp
    have h2 := congrArg (fun f => f.coeff 2) hp
    simp [coeff_X, coeff_C] at h0 h1 h2
    cases a; cases b
    simp only [Cub.mk.injEq]
    exact ⟨h.inj _ _ ha.1 hb.1 h0, h.inj _ _ ha.2.1 hb.2.1 h1, h.inj _ _ ha.2.2 hb.2.2 h2⟩

theorem nontrivial_adjoinRoot [Nontrivial A] {n : Nat} (hn : n ≠ 0) (N : A) :
    Nontrivial (AdjoinRoot (X ^ n - C N)) := by
  refine ⟨⟨0, 1, fun h => ?_⟩⟩
  have := mk_injective_of_degree_lt hn N (f := 0) (g := 1) (by simp)
    (by rw [degree_one]; exact_mod_cast Nat.pos_of_ne_zero hn) (by simpa using h)
  exact zero_ne_one this

end Extensions

/-! The fields of a configuration, and the elements that cells hold. -/

section Configured

variable {c : Config}

theorem fp2Model (hp : 1 < c.p) : FldModel (fp2 c) (Spec.A2 c) (fun a => Spec.el2 c a.c0 a.c1)
    (fun a => a.c0 < c.p ∧ a.c1 < c.p) := by
  have := Fact.mk hp
  have h := quadModel (fpModel hp) c.p c.nr2
  have e : (fun a : F2 => Spec.el2 c a.c0 a.c1) = quadMap (fun x : Nat => (x : ZMod c.p)) (c.nr2 : ZMod c.p) := by
    funext a
    simp [quadMap, Spec.el2]
  rw [e]
  exact h

theorem fp3Model (hp : 1 < c.p) : FldModel (fp3 c) (Spec.A3 c) (fun a => Spec.el3 c a.c0 a.c1 a.c2)
    (fun a => a.c0 < c.p ∧ a.c1 < c.p ∧ a.c2 < c.p) := by
  have := Fact.mk hp
  have h := cubModel (fpModel hp) c.p c.nr3
  have e : (fun a : F3 => Spec.el3 c a.c0 a.c1 a.c2) =
      cubMap (fun x : Nat => (x : ZMod c.p)) (c.nr3 : ZMod c.p) := by
    funext a
    simp [cubMap, Spec.el3]
  rw [e]
  exact h

theorem nontrivial_A2 (hp : 1 < c.p) : Nontrivial (Spec.A2 c) := by
  have := Fact.mk hp
  exact nontrivial_adjoinRoot two_ne_zero _

theorem nontrivial_A3 (hp : 1 < c.p) : Nontrivial (Spec.A3 c) := by
  have := Fact.mk hp
  exact nontrivial_adjoinRoot three_ne_zero _

/-- An element of the 3-over-2 Fp6 in its ring. -/
noncomputable def el6Of (c : Config) (n : F2) (a : F6Over2) : Spec.A6 c n :=
  Spec.el6 c n (Spec.el2 c a.c0.c0 a.c0.c1) (Spec.el2 c a.c1.c0 a.c1.c1) (Spec.el2 c a.c2.c0 a.c2.c1)

/-- Every coordinate of an Fp2 value is canonical. -/
def ok2 (c : Config) (a : F2) : Prop := a.c0 < c.p ∧ a.c1 < c.p

/-- Every coordinate of an Fp6 value (3-over-2) is canonical. -/
def ok6 (c : Config) (a : F6Over2) : Prop := ok2 c a.c0 ∧ ok2 c a.c1 ∧ ok2 c a.c2

theorem fp6Over2Model (hp : 1 < c.p) (n : F2) :
    FldModel (fp6Over2 c n) (Spec.A6 c n) (el6Of c n) (ok6 c) := by
  have := nontrivial_A2 hp
  exact cubModel (fp2Model hp) c.p n

theorem fp6Over3Model (hp : 1 < c.p) (n : F3) :
    FldModel (fp6Over3 c n) (Spec.A6b c n)
      (fun a => Spec.el6b c n (Spec.el3 c a.c0.c0 a.c0.c1 a.c0.c2) (Spec.el3 c a.c1.c0 a.c1.c1 a.c1.c2))
      (fun a => (a.c0.c0 < c.p ∧ a.c0.c1 < c.p ∧ a.c0.c2 < c.p) ∧
        (a.c1.c0 < c.p ∧ a.c1.c1 < c.p ∧ a.c1.c2 < c.p)) := by
  have := nontrivial_A3 hp
  exact quadModel (fp3Model hp) c.p n

theorem fp12Model (hp : 1 < c.p) {n : F2} (hn : c.f6 = .over2 n) :
    FldModel (fp12 c) (Spec.A12 c n) (fun a => Spec.el12 c n (el6Of c n a.c0) (el6Of c n a.c1))
      (fun a => ok6 c a.c0 ∧ ok6 c a.c1) := by
  have := nontrivial_A2 hp
  have : Nontrivial (Spec.A6 c n) := nontrivial_adjoinRoot three_ne_zero _
  have hn' : nr6Over2 c = n := by simp [nr6Over2, hn]
  have h := quadModel (fp6Over2Model hp n) c.p c.nr12
  rw [fp12, hn']
  exact h

theorem ev2_readElem (s : State) (b : Nat) :
    Spec.el2 s.cfg (readElem (fp2 s.cfg) s b).c0 (readElem (fp2 s.cfg) s b).c1 =
      Spec.ev2 s.cfg (canon s) b := rfl

theorem ev3_readElem (s : State) (b : Nat) :
    Spec.el3 s.cfg (readElem (fp3 s.cfg) s b).c0 (readElem (fp3 s.cfg) s b).c1
      (readElem (fp3 s.cfg) s b).c2 = Spec.ev3 s.cfg (canon s) b := rfl

theorem ev6_readElem (s : State) (n : F2) (b : Nat) :
    el6Of s.cfg n (readElem (fp6Over2 s.cfg n) s b) = Spec.ev6 s.cfg n (canon s) b := rfl

theorem ev12_readElem (s : State) (n : F2) (b : Nat) :
    Spec.el12 s.cfg n (el6Of s.cfg n (readElem (fp12 s.cfg) s b).c0)
      (el6Of s.cfg n (readElem (fp12 s.cfg) s b).c1) = Spec.ev12 s.cfg n (canon s) b := rfl

end Configured

end Sys2Proof.Machine
end

