-- ==== Sys2Proof/Laws/Memory.lean ====
section
/-! SUPPORT. XMEM: a byte read after a write, and the canonical form that every memory operation keeps (rule
R62); the host's four-byte window write (rule R66) and the two resets (rules R411, R412) among them. -/

namespace Sys2Proof.Machine

/-! Reads after writes. -/

theorem memRead_memCons (a : Nat) (v : Byte) (m : List Host.Cell) (h : memRead m a = unlistedByte)
    (x : Nat) : memRead (memCons a v m) x = if x = a then v else memRead m x := by
  unfold memCons
  by_cases hv : v = unlistedByte
  · rw [if_pos hv]
    by_cases hx : x = a
    · subst hx; rw [if_pos rfl, h, hv]
    · rw [if_neg hx]
  · rw [if_neg hv]; rfl

/-- Below its first address a canonical memory reads the unlisted byte. -/
theorem memRead_below {lo : Nat} {m : List Host.Cell} (h : memWfFrom lo m = true) {a : Nat} (ha : a < lo) :
    memRead m a = unlistedByte := by
  induction m generalizing lo with
  | nil => rfl
  | cons c m ih =>
    obtain ⟨b, v⟩ := c
    simp only [memWfFrom, Bool.and_eq_true, decide_eq_true_eq] at h
    have hb : lo ≤ b := h.1.1.1
    rw [memRead, if_neg (by omega)]
    exact ih h.2 (by omega)

/-- Read after write: the written byte at its address, every other byte as before. -/
theorem memRead_memWrite {lo : Nat} {m : List Host.Cell} (h : memWfFrom lo m = true) (a : Nat) (v : Byte)
    (x : Nat) : memRead (memWrite m a v) x = if x = a then v else memRead m x := by
  induction m generalizing lo with
  | nil => exact memRead_memCons a v [] rfl x
  | cons c m ih =>
    obtain ⟨b, w⟩ := c
    simp only [memWfFrom, Bool.and_eq_true, decide_eq_true_eq] at h
    rw [memWrite]
    split
    · next hab =>
      refine memRead_memCons a v _ ?_ x
      rw [memRead, if_neg (by omega)]
      exact memRead_below h.2 (by omega)
    · split
      · next hab =>
        subst hab
        rw [memRead_memCons a v m (memRead_below h.2 (by omega)) x]
        by_cases hx : x = a
        · rw [if_pos hx, if_pos hx]
        · rw [if_neg hx, if_neg hx, memRead, if_neg hx]
      · next h1 h2 =>
        simp only [memRead]
        by_cases hx : x = b
        · subst hx; rw [if_pos rfl, if_pos rfl, if_neg (by omega)]
        · rw [if_neg hx, if_neg hx]; exact ih h.2

/-- A write leaves every other byte alone, whatever the list is. -/
theorem memRead_memWrite_ne (m : List Host.Cell) {a x : Nat} (hx : x ≠ a) (v : Byte) :
    memRead (memWrite m a v) x = memRead m x := by
  have hc : ∀ m' : List Host.Cell, memRead (memCons a v m') x = memRead m' x := by
    intro m'
    unfold memCons
    split
    · rfl
    · rw [memRead, if_neg hx]
  induction m with
  | nil => exact hc []
  | cons c m ih =>
    obtain ⟨b, w⟩ := c
    rw [memWrite]
    split
    · exact hc _
    · split
      · next hab => subst hab; rw [hc, memRead, if_neg hx]
      · rw [memRead, memRead, ih]

/-- A write of consecutive bytes leaves every byte outside them alone, whatever the list is. -/
theorem memRead_memWriteList_outside (m : List Host.Cell) (a : Nat) (vs : List Byte) {x : Nat}
    (hx : ¬(a ≤ x ∧ x < a + vs.length)) : memRead (memWriteList m a vs) x = memRead m x := by
  induction vs generalizing m a with
  | nil => rfl
  | cons v vs ih =>
    simp only [List.length_cons] at hx
    rw [memWriteList, ih _ _ (by omega), memRead_memWrite_ne _ (by omega)]

/-! The canonical form. -/

theorem memWfFrom_mono {lo lo' : Nat} {m : List Host.Cell} (hl : lo' ≤ lo) (h : memWfFrom lo m = true) :
    memWfFrom lo' m = true := by
  cases m with
  | nil => rfl
  | cons c m =>
    obtain ⟨b, v⟩ := c
    simp only [memWfFrom, Bool.and_eq_true, decide_eq_true_eq] at h ⊢
    exact ⟨⟨⟨by omega, h.1.1.2⟩, h.1.2⟩, h.2⟩

theorem memWfFrom_memCons {a : Nat} {v : Byte} {m : List Host.Cell} (ha : a < Config.xbytes)
    (h : memWfFrom (a + 1) m = true) {lo : Nat} (hl : lo ≤ a) : memWfFrom lo (memCons a v m) = true := by
  unfold memCons
  split
  · exact memWfFrom_mono (by omega) h
  · next hv => simp [memWfFrom, hl, ha, hv, h]

theorem memWfFrom_memWrite {lo : Nat} {m : List Host.Cell} (h : memWfFrom lo m = true) {a : Nat}
    (hl : lo ≤ a) (ha : a < Config.xbytes) (v : Byte) : memWfFrom lo (memWrite m a v) = true := by
  induction m generalizing lo with
  | nil => exact memWfFrom_memCons ha rfl hl
  | cons c m ih =>
    obtain ⟨b, w⟩ := c
    have h' := h
    simp only [memWfFrom, Bool.and_eq_true, decide_eq_true_eq] at h
    rw [memWrite]
    split
    · next hab =>
      refine memWfFrom_memCons ha ?_ hl
      simp only [memWfFrom, Bool.and_eq_true, decide_eq_true_eq]
      exact ⟨⟨⟨by omega, h.1.1.2⟩, h.1.2⟩, h.2⟩
    · split
      · next hab => subst hab; exact memWfFrom_memCons ha h.2 hl
      · next h1 h2 =>
        simp only [memWfFrom, Bool.and_eq_true, decide_eq_true_eq]
        exact ⟨h.1, ih h.2 (by omega)⟩

/-- A write inside XMEM keeps the canonical form. -/
theorem memWf_memWrite {m : List Host.Cell} (h : memWf m = true) {a : Nat} (ha : a < Config.xbytes)
    (v : Byte) : memWf (memWrite m a v) = true :=
  memWfFrom_memWrite h (Nat.zero_le _) ha v

/-- A write of consecutive bytes inside XMEM keeps the canonical form. -/
theorem memWf_memWriteList {m : List Host.Cell} (h : memWf m = true) {a : Nat} {vs : List Byte}
    (ha : a + vs.length ≤ Config.xbytes) : memWf (memWriteList m a vs) = true := by
  induction vs generalizing m a with
  | nil => exact h
  | cons v vs ih =>
    simp only [List.length_cons] at ha
    exact ih (memWf_memWrite h (by omega) v) (by omega)

/-- Reading a byte after consecutive bytes are written: the written list inside, the old byte outside. -/
theorem memRead_memWriteList {m : List Host.Cell} (h : memWf m = true) {a : Nat} {vs : List Byte}
    (ha : a + vs.length ≤ Config.xbytes) (x : Nat) :
    memRead (memWriteList m a vs) x =
      if a ≤ x ∧ x < a + vs.length then vs.getD (x - a) 0 else memRead m x := by
  induction vs generalizing m a with
  | nil => simp [memWriteList, show ¬(a ≤ x ∧ x < a) by omega]
  | cons v vs ih =>
    simp only [List.length_cons] at ha ⊢
    rw [memWriteList, ih (memWf_memWrite h (by omega) v) (by omega), memRead_memWrite h]
    by_cases h1 : a + 1 ≤ x ∧ x < a + 1 + vs.length
    · obtain ⟨n, rfl⟩ : ∃ n, x = a + 1 + n := ⟨x - (a + 1), by omega⟩
      rw [if_pos h1, if_pos (by omega), show a + 1 + n - (a + 1) = n by omega,
        show a + 1 + n - a = n + 1 by omega, List.getD_cons_succ]
    · rw [if_neg h1]
      by_cases h2 : x = a
      · subst h2; simp
      · rw [if_neg h2, if_neg (by omega)]

/-- The memory of any list of cells is canonical. -/
theorem memWf_memOfCells (cs : List Host.Cell) : memWf (memOfCells cs) = true := by
  unfold memOfCells
  have key : ∀ (cs m : List Host.Cell), memWf m = true → memWf (cs.foldl
      (fun m c => if c.1 < Config.xbytes then memWrite m c.1 c.2 else m) m) = true := by
    intro cs
    induction cs with
    | nil => exact fun m h => h
    | cons c cs ih =>
      intro m h
      rw [List.foldl_cons]
      apply ih
      split
      · next hc => exact memWf_memWrite h hc c.2
      · exact h
  exact key cs [] rfl

@[simp] theorem memReadList_length (m : List Host.Cell) (a n : Nat) : (memReadList m a n).length = n := by
  induction n generalizing a with
  | zero => rfl
  | succ n ih => simp [memReadList, ih]

@[simp] theorem toBytesLE_length (v n : Nat) : (toBytesLE v n).length = n := by
  induction n generalizing v with
  | zero => rfl
  | succ n ih => simp [toBytesLE, ih]

@[simp] theorem toBytes_length (e : Bool) (v n : Nat) : (toBytes e v n).length = n := by
  unfold toBytes; split <;> simp

@[simp] theorem wordBytes_length (w : Word) : (wordBytes w).length = 4 := rfl

/-- `FromBytes` of `ToBytes` (R64), least significant byte first. -/
theorem fromBytesLE_toBytesLE (v n : Nat) : fromBytesLE (toBytesLE v n) = v % 256 ^ n := by
  induction n generalizing v with
  | zero => simp [fromBytesLE, toBytesLE, Nat.mod_one]
  | succ n ih =>
    have h : (BitVec.ofNat 8 v).toNat = v % 256 := BitVec.toNat_ofNat v 8
    rw [toBytesLE, fromBytesLE, ih, h, Nat.pow_succ', Nat.mod_mul]

/-- `FromBytes` of `ToBytes` in either byte order (R64). -/
theorem fromBytes_toBytes (e : Bool) (v n : Nat) : fromBytes e (toBytes e v n) = v % 256 ^ n := by
  cases e <;> simp [fromBytes, toBytes, fromBytesLE_toBytesLE]

/-! The operations on the state. -/

/-- Everything `xmemStore` can do: outside XMEM it raises XADDR; inside it replaces the bytes, keeps the
canonical form, and every other byte reads as before (R62). -/
theorem xmemStore_cases (s : State) (addr n v : Nat) :
    (4096 < addr + n ∧ xmemStore s addr n v = .error .xaddr) ∨
    (addr + n ≤ 4096 ∧ xmemStore s addr n v =
      .ok { s with xmem := memWriteList s.xmem addr (toBytes (endianBig s) v n) }) := by
  unfold xmemStore
  by_cases h : addr + n ≤ Config.xbytes
  · exact .inr ⟨h, if_pos h⟩
  · exact .inl ⟨by simpa [Config.xbytes] using h, if_neg h⟩

/-- Everything `xmemLoad` can answer (R62). -/
theorem xmemLoad_cases (s : State) (addr n : Nat) :
    (4096 < addr + n ∧ xmemLoad s addr n = .error .xaddr) ∨
    (addr + n ≤ 4096 ∧
      xmemLoad s addr n = .ok (fromBytes (endianBig s) (memReadList s.xmem addr n))) := by
  unfold xmemLoad
  by_cases h : addr + n ≤ Config.xbytes
  · exact .inr ⟨h, if_pos h⟩
  · exact .inl ⟨by simpa [Config.xbytes] using h, if_neg h⟩

/-- The canonical form after a window write, which is always inside XMEM (R66). -/
theorem memWf_writeWindow {s : State} (h : memWf s.xmem = true) (haddr : BitVec 11) (w : Word) :
    memWf (writeWindow s (windowAddr haddr) w).xmem = true := by
  unfold writeWindow
  split
  · exact h
  · refine memWf_memWriteList h ?_
    have : (haddr.extractLsb' 0 10).toNat < 2 ^ 10 := BitVec.isLt _
    simp only [windowAddr, wordBytes_length, Config.xbytes]
    omega

/-- The canonical form at reset and after both resets (R411, R412). -/
theorem memWf_reset : memWf State.reset.xmem = true := rfl

theorem memWf_softReset {s : State} (h : memWf s.xmem = true) : memWf (softReset s).xmem = true := h

theorem memWf_hardReset (s : State) (cs : List Host.Cell) : memWf (hardReset s cs).xmem = true :=
  memWf_memOfCells cs

end Sys2Proof.Machine
end

