-- ==== Sys2Proof/Laws/Frames.lean ====
section
/-! SUPPORT. The frames of Safety.lean, met by each way a command can write: cells, the test flag, an integer
register, XMEM, a bank, nothing. -/

namespace Sys2Proof.Machine

/-- Fault entry as Safety.lean writes it. -/
theorem takeFault_eq (c : FaultCode) (s : State) : takeFault c s = faulted s (faultCode c) := rfl

theorem completed_complete {s t : State} (hcfg : t.cfg = s.cfg) (hctrl : t.ctrl = s.ctrl)
    (hfault : t.fault = s.fault) (hhe : t.hosterr = s.hosterr) (hfc : t.fcode = s.fcode)
    (hfcmd : t.fcmd = s.fcmd) (hp : t.pend = s.pend) (hm : t.mlPrev = s.mlPrev) (hr : t.hrdata = s.hrdata)
    (hi : t.inputs = s.inputs) : Completed s (complete t) :=
  ⟨rfl, rfl, hcfg, hctrl, hfault, hhe, hfc, hfcmd, hp, hm, hr, hi⟩

/-- Writing raw contents below `p` to the span of a destination, and completing. -/
theorem onlyCells_setCells (s : State) (b : CellIdx) (vs : List Nat) (hb : b.toNat + vs.length ≤ 128)
    (hv : ∀ v ∈ vs, v < s.cfg.p) : OnlyCells s (complete (setCells s b.toNat vs)) b vs.length := by
  refine ⟨by apply completed_complete <;> simp, ?_, ?_, fun r => ?_, fun d => ?_, by simp, by simp,
    fun a _ => by simp⟩
  · intro i _ hi
    rw [rawCell_complete, cellValid_complete, rawCell_setCells _ _ _ hb, cellValid_setCells _ _ _ hb,
      if_neg hi, if_neg hi]
    exact ⟨rfl, rfl⟩
  · intro i hi
    rw [rawCell_complete, cellValid_complete, rawCell_setCells _ _ _ hb, cellValid_setCells _ _ _ hb,
      if_pos ⟨by omega, by omega⟩, if_pos ⟨by omega, by omega⟩]
    refine ⟨rfl, ?_⟩
    rw [Nat.add_sub_cancel_left, List.getD_eq_getElem _ _ hi]
    simpa using hv _ (List.getElem_mem hi)
  · simp [kReg, kValid]
  · simp [bank, bankValid]

/-- Writing canonical values whose representations are below `p`, and completing. -/
theorem onlyCells_setValues (s : State) (b : CellIdx) (vs : List Nat) (hb : b.toNat + vs.length ≤ 128)
    (hv : ∀ v ∈ vs, rep s.cfg v < s.cfg.p) :
    OnlyCells s (complete (setValues s b.toNat vs)) b vs.length := by
  have h := onlyCells_setCells s b (vs.map (rep s.cfg)) (by simpa using hb)
    (by simpa using hv)
  simpa [setValues] using h

/-- One cell is a span of one. -/
theorem setCell_eq_setCells (s : State) (i v : Nat) : setCell s i v = setCells s i [v] := rfl

theorem onlyT_setT (s : State) (b : Bool) : OnlyT s (complete (setT s b)) :=
  ⟨by apply completed_complete <;> rfl, fun _ _ _ => ⟨rfl, rfl⟩, fun _ => ⟨rfl, rfl⟩,
    fun _ => ⟨rfl, rfl⟩, rfl, fun _ _ => rfl⟩

theorem onlyCompletes_complete (s : State) : OnlyCompletes s (complete s) :=
  ⟨by apply completed_complete <;> rfl, fun _ _ _ => ⟨rfl, rfl⟩, fun _ => ⟨rfl, rfl⟩,
    fun _ => ⟨rfl, rfl⟩, rfl, rfl, fun _ _ => rfl⟩

theorem onlyK_setK (s : State) (r : KIdx) (v : Nat) : OnlyK s (complete (setK s r v)) r := by
  refine ⟨by apply completed_complete <;> rfl, fun _ _ _ => ⟨rfl, rfl⟩, ?_, fun q hq => ⟨?_, ?_⟩,
    fun _ => ⟨rfl, rfl⟩, rfl, rfl, fun _ _ => rfl⟩
  · have := kValid_setK s r r v; rwa [if_pos rfl] at this
  · have := kReg_setK s r q v; rwa [if_neg hq] at this
  · have := kValid_setK s r q v; rwa [if_neg hq] at this

theorem onlyBank_setBank (s : State) (b : BankIdx) (B : Bank) :
    OnlyBank s (complete (setMl (setBank s b B) .notStarted)) b := by
  refine ⟨by apply completed_complete <;> rfl, fun _ _ _ => ⟨rfl, rfl⟩, fun _ => ⟨rfl, rfl⟩,
    ⟨?_, fun d hd => ⟨?_, ?_⟩⟩, rfl, rfl, fun _ _ => rfl⟩
  · have := bankValid_setBank s b b B; rwa [if_pos rfl] at this
  · have := bank_setBank s b d B; rwa [if_neg hd] at this
  · have := bankValid_setBank s b d B; rwa [if_neg hd] at this

theorem onlyMem_memWriteList (s : State) (addr : Nat) (vs : List Byte) :
    OnlyMem s (complete { s with xmem := memWriteList s.xmem addr vs }) addr vs.length :=
  ⟨by apply completed_complete <;> rfl, fun _ _ _ => ⟨rfl, rfl⟩, fun _ => ⟨rfl, rfl⟩,
    fun _ => ⟨rfl, rfl⟩, rfl, rfl, fun _ ha => memRead_memWriteList_outside _ _ _ ha⟩

end Sys2Proof.Machine
end

