-- ==== Sys2Proof/Laws/Groups.lean ====
section
/-! SUPPORT. The group law and the scalar multipliers of Machine/Group.lean seen in the ring: each is the formula
of Safety/Rings.lean on the images of its operands (rules R262 to R268, R300, R301). -/

namespace Sys2Proof.Machine

variable {α : Type} [DecidableEq α] {K : Fld α} {A : Type} [CommRing A] {φ : α → A} {ok : α → Prop}

/-- A triple in the ring. -/
def mapPt (φ : α → A) (P : Pt α) : Pt A := ⟨φ P.x, φ P.y, φ P.z⟩

/-- An affine point in the ring. -/
def mapAff (φ : α → A) (P : Aff α) : Aff A := ⟨φ P.x, φ P.y⟩

/-- Every coordinate is canonical. -/
def okPt (ok : α → Prop) (P : Pt α) : Prop := ok P.x ∧ ok P.y ∧ ok P.z

theorem isId_iff (h : FldModel K A φ ok) {P : Pt α} (hP : okPt ok P) :
    isId K P = true ↔ (mapPt φ P).z = 0 := by
  simp only [isId, decide_eq_true_eq, mapPt]
  exact h.eq_zero_iff hP.2.2

omit [DecidableEq α] in
theorem mapPt_ptZero (h : FldModel K A φ ok) : mapPt φ (ptZero K) = Spec.zeroPt := by
  simp [mapPt, ptZero, Spec.zeroPt, h.map_zero, h.map_one]

omit [DecidableEq α] in
theorem okPt_ptZero (h : FldModel K A φ ok) : okPt ok (ptZero K) :=
  ⟨h.zero_ok, h.one_ok, h.zero_ok⟩

theorem okPt_ptDbl (h : FldModel K A φ ok) (a : α) {P : Pt α} (hP : okPt ok P) :
    okPt ok (ptDbl K a P) := by
  unfold ptDbl
  split
  · exact hP
  · exact ⟨h.sub_ok _ _, h.sub_ok _ _, h.mul_ok _ _⟩

/-- Doubling (R262). -/
theorem mapPt_ptDbl (h : FldModel K A φ ok) {a : α} (ha : ok a) {P : Pt α} (hP : okPt ok P) :
    mapPt φ (ptDbl K a P) = Spec.dbl (φ a) (mapPt φ P) := by
  have hid := isId_iff h hP
  unfold ptDbl Spec.dbl
  by_cases hz : isId K P = true
  · rw [if_pos hz, if_pos (hid.1 hz)]
  · rw [if_neg hz, if_neg (fun e => hz (hid.2 e))]
    have hM : φ (if a = K.zero then K.tpl (K.sqr P.x)
        else K.add (K.tpl (K.sqr P.x)) (K.mul (K.mul a (K.sqr P.z)) (K.sqr P.z))) =
        3 * φ P.x ^ 2 + φ a * φ P.z ^ 4 := by
      split
      · next e =>
        rw [h.map_tpl, h.map_sqr, (h.eq_zero_iff ha).1 e]; ring
      · simp only [h.map_add, h.map_tpl, h.map_sqr, h.map_mul]; ring
    simp only [mapPt, h.map_sub, h.map_add, h.map_sqr, h.map_mul, h.map_dbl, h.map_octuple, hM,
      Pt.mk.injEq]
    exact ⟨by ring, by ring, trivial⟩

theorem okPt_ptAdd (h : FldModel K A φ ok) (a : α) {P Q : Pt α} (hP : okPt ok P) (hQ : okPt ok Q) :
    okPt ok (ptAdd K a P Q) := by
  unfold ptAdd
  dsimp only
  split
  · exact hQ
  · split
    · exact hP
    · split
      · split
        · exact okPt_ptDbl h a hP
        · exact okPt_ptZero h
      · exact ⟨h.sub_ok _ _, h.sub_ok _ _, h.mul_ok _ _⟩

/-- Addition (R263). -/
theorem mapPt_ptAdd (h : FldModel K A φ ok) {a : α} (ha : ok a) {P Q : Pt α} (hP : okPt ok P)
    (hQ : okPt ok Q) : mapPt φ (ptAdd K a P Q) = Spec.add (φ a) (mapPt φ P) (mapPt φ Q) := by
  have h1 := isId_iff h hP
  have h2 := isId_iff h hQ
  unfold ptAdd Spec.add
  dsimp only
  by_cases z1 : isId K P = true
  · rw [if_pos z1, if_pos (h1.1 z1)]
  rw [if_neg z1, if_neg (fun e => z1 (h1.2 e))]
  by_cases z2 : isId K Q = true
  · rw [if_pos z2, if_pos (h2.1 z2)]
  rw [if_neg z2, if_neg (fun e => z2 (h2.2 e))]
  have hU : K.mul P.x (K.sqr Q.z) = K.mul Q.x (K.sqr P.z) ↔
      (mapPt φ P).x * (mapPt φ Q).z ^ 2 = (mapPt φ Q).x * (mapPt φ P).z ^ 2 := by
    rw [h.eq_iff (h.mul_ok _ _) (h.mul_ok _ _)]
    simp only [h.map_mul, h.map_sqr, mapPt]
  have hS : K.mul (K.mul P.y Q.z) (K.sqr Q.z) = K.mul (K.mul Q.y P.z) (K.sqr P.z) ↔
      (mapPt φ P).y * (mapPt φ Q).z ^ 3 = (mapPt φ Q).y * (mapPt φ P).z ^ 3 := by
    rw [h.eq_iff (h.mul_ok _ _) (h.mul_ok _ _)]
    simp only [h.map_mul, h.map_sqr, mapPt]
    constructor <;> intro e <;> linear_combination e
  by_cases u : K.mul P.x (K.sqr Q.z) = K.mul Q.x (K.sqr P.z)
  · rw [if_pos u, if_pos (hU.1 u)]
    by_cases v : K.mul (K.mul P.y Q.z) (K.sqr Q.z) = K.mul (K.mul Q.y P.z) (K.sqr P.z)
    · rw [if_pos v, if_pos (hS.1 v), mapPt_ptDbl h ha hP]
    · rw [if_neg v, if_neg (fun e => v (hS.2 e)), mapPt_ptZero h]
  · rw [if_neg u, if_neg (fun e => u (hU.2 e))]
    simp only [mapPt, h.map_sub, h.map_add, h.map_sqr, h.map_mul, h.map_dbl, Pt.mk.injEq]
    refine ⟨by ring, by ring, by ring⟩

theorem okPt_ptMadd (h : FldModel K A φ ok) (a : α) {P : Pt α} {Q : Aff α} (hP : okPt ok P)
    (hx : ok Q.x) (hy : ok Q.y) : okPt ok (ptMadd K a P Q) := by
  unfold ptMadd
  dsimp only
  split
  · exact ⟨hx, hy, h.one_ok⟩
  · split
    · split
      · exact okPt_ptDbl h a hP
      · exact okPt_ptZero h
    · exact ⟨h.sub_ok _ _, h.sub_ok _ _, h.sub_ok _ _⟩

/-- Mixed addition (R264). -/
theorem mapPt_ptMadd (h : FldModel K A φ ok) {a : α} (ha : ok a) {P : Pt α} (hP : okPt ok P) (Q : Aff α) :
    mapPt φ (ptMadd K a P Q) = Spec.madd (φ a) (mapPt φ P) (mapAff φ Q) := by
  have h1 := isId_iff h hP
  unfold ptMadd Spec.madd
  dsimp only
  by_cases z1 : isId K P = true
  · rw [if_pos z1, if_pos (h1.1 z1)]
    simp [mapPt, mapAff, h.map_one]
  rw [if_neg z1, if_neg (fun e => z1 (h1.2 e))]
  have hU : P.x = K.mul Q.x (K.sqr P.z) ↔ (mapPt φ P).x = (mapAff φ Q).x * (mapPt φ P).z ^ 2 := by
    rw [h.eq_iff hP.1 (h.mul_ok _ _)]
    simp only [h.map_mul, h.map_sqr, mapPt, mapAff]
  have hS : P.y = K.mul (K.mul Q.y P.z) (K.sqr P.z) ↔
      (mapPt φ P).y = (mapAff φ Q).y * (mapPt φ P).z ^ 3 := by
    rw [h.eq_iff hP.2.1 (h.mul_ok _ _)]
    simp only [h.map_mul, h.map_sqr, mapPt, mapAff]
    constructor <;> intro e <;> linear_combination e
  by_cases u : P.x = K.mul Q.x (K.sqr P.z)
  · rw [if_pos u, if_pos (hU.1 u)]
    by_cases v : P.y = K.mul (K.mul Q.y P.z) (K.sqr P.z)
    · rw [if_pos v, if_pos (hS.1 v), mapPt_ptDbl h ha hP]
    · rw [if_neg v, if_neg (fun e => v (hS.2 e)), mapPt_ptZero h]
  · rw [if_neg u, if_neg (fun e => u (hU.2 e))]
    simp only [mapPt, mapAff, h.map_sub, h.map_add, h.map_sqr, h.map_mul, h.map_dbl, h.map_quadruple,
      Pt.mk.injEq]
    refine ⟨by ring, by ring, by ring⟩

omit [DecidableEq α] in
/-- Negation (R265). -/
theorem mapPt_ptNeg (h : FldModel K A φ ok) (P : Pt α) : mapPt φ (ptNeg K P) = Spec.neg (mapPt φ P) := by
  simp [mapPt, ptNeg, Spec.neg, h.map_neg]

/-- Equality of represented points (R267). -/
theorem ptEq_iff (h : FldModel K A φ ok) {P Q : Pt α} (hP : okPt ok P) (hQ : okPt ok Q) :
    ptEq K P Q = true ↔
      ((mapPt φ P).z = 0 ∧ (mapPt φ Q).z = 0) ∨
      ((mapPt φ P).z ≠ 0 ∧ (mapPt φ Q).z ≠ 0 ∧
        (mapPt φ P).x * (mapPt φ Q).z ^ 2 = (mapPt φ Q).x * (mapPt φ P).z ^ 2 ∧
        (mapPt φ P).y * (mapPt φ Q).z ^ 3 = (mapPt φ Q).y * (mapPt φ P).z ^ 3) := by
  have h1 := isId_iff h hP
  have h2 := isId_iff h hQ
  have hU : K.mul P.x (K.sqr Q.z) = K.mul Q.x (K.sqr P.z) ↔
      (mapPt φ P).x * (mapPt φ Q).z ^ 2 = (mapPt φ Q).x * (mapPt φ P).z ^ 2 := by
    rw [h.eq_iff (h.mul_ok _ _) (h.mul_ok _ _)]
    simp only [h.map_mul, h.map_sqr, mapPt]
  have hS : K.mul (K.mul P.y Q.z) (K.sqr Q.z) = K.mul (K.mul Q.y P.z) (K.sqr P.z) ↔
      (mapPt φ P).y * (mapPt φ Q).z ^ 3 = (mapPt φ Q).y * (mapPt φ P).z ^ 3 := by
    rw [h.eq_iff (h.mul_ok _ _) (h.mul_ok _ _)]
    simp only [h.map_mul, h.map_sqr, mapPt]
    constructor <;> intro e <;> linear_combination e
  unfold ptEq
  by_cases z1 : isId K P = true <;> by_cases z2 : isId K Q = true <;>
    simp only [z1, z2, Bool.or_true, Bool.or_false, Bool.or_self, Bool.false_eq_true, if_true, if_false,
      Bool.and_true, Bool.and_false, Bool.and_eq_true, beq_iff_eq, hU, hS, ← h1, ← h2, ne_eq,
      Bool.not_eq_true] <;> simp [z1, z2]

/-- Well-formedness (R268). -/
theorem ptIsWF_iff (h : FldModel K A φ ok) (a b : α) {P : Pt α} (hP : okPt ok P) :
    ptIsWF K a b P = true ↔
      (mapPt φ P).z = 0 ∨ (mapPt φ P).y ^ 2 =
        (mapPt φ P).x ^ 3 + φ a * (mapPt φ P).x * (mapPt φ P).z ^ 4 + φ b * (mapPt φ P).z ^ 6 := by
  have h1 := isId_iff h hP
  unfold ptIsWF
  by_cases z1 : isId K P = true
  · simp [z1, h1.1 z1]
  · rw [if_neg z1]
    rw [or_iff_right (fun e => z1 (h1.2 e)), beq_iff_eq, h.eq_iff (h.sqr_ok _) (h.add_ok _ _)]
    simp only [h.map_add, h.map_mul, h.map_sqr, mapPt]
    constructor <;> intro e <;> linear_combination e

end Sys2Proof.Machine
end

