-- ==== Sys2Proof/Laws/Primes.lean ====
section
/-! SUPPORT. The check of the configuration asks for a prime modulus, neither more nor less (rule R9): trial
division is exact, and the modulus of BLS12-381 is prime, by Pocklington's criterion. -/

namespace Sys2Proof.Machine

/-! Trial division. -/

/-- What `noDivisor` says. -/
theorem noDivisor_iff (n fuel d : Nat) :
    noDivisor n fuel d = true ↔ ∀ e, d ≤ e → e < d + fuel → e * e ≤ n → ¬e ∣ n := by
  induction fuel generalizing d with
  | zero => simp only [noDivisor, true_iff]; omega
  | succ fuel ih =>
    rw [noDivisor]
    split
    · next h =>
      have : ∀ e, d ≤ e → n < e * e := fun e he => lt_of_lt_of_le h (Nat.mul_le_mul he he)
      simp only [true_iff]
      exact fun e he _ hn => absurd (this e he) (by omega)
    · next h =>
      split
      · next h0 =>
        simp only [Bool.false_eq_true, false_iff, not_forall]
        exact ⟨d, le_rfl, by omega, by omega, not_not.2 (Nat.dvd_of_mod_eq_zero h0)⟩
      · next h0 =>
        rw [ih]
        refine ⟨fun H e he hf hn => ?_, fun H e he hf hn => H e (by omega) (by omega) hn⟩
        rcases Nat.eq_or_lt_of_le he with rfl | hlt
        · exact fun hd => h0 (Nat.mod_eq_zero_of_dvd hd)
        · exact H e hlt (by omega) hn

theorem prime_iff_noDivisor (n : Nat) : (2 ≤ n ∧ noDivisor n n 2 = true) ↔ n.Prime := by
  rw [noDivisor_iff, Nat.prime_def_le_sqrt]
  refine and_congr_right fun h2 => ⟨fun H m hm hs => ?_, fun H e he _ hn => H e he (Nat.le_sqrt.2 hn)⟩
  have hn : m * m ≤ n := Nat.le_sqrt.1 hs
  exact H m hm (by nlinarith) hn

/-! Pocklington's criterion. -/

/-- A power of `a` that is 1, while its part without the prime `r` is not, modulo any divisor of `n`: `r`
divides `s - 1` for every prime divisor `s` of `n`. -/
theorem dvd_pred_of_witness {n r : Nat} (a : Nat) (hr : r.Prime) (hrn : r ∣ n - 1)
    (h1 : powMod n a (n - 1) = 1 % n) (h2 : Nat.gcd (powMod n a ((n - 1) / r) + (n - 1)) n = 1)
    (hn : 0 < n) {s : Nat} (hs : s.Prime) (hsn : s ∣ n) : r ∣ s - 1 := by
  have := Fact.mk hs
  rw [powMod_eq hn] at h1 h2
  have e1 : (a : ZMod s) ^ (n - 1) = 1 := by
    have h : (a ^ (n - 1)) % s = 1 % s := by
      rw [← Nat.mod_mod_of_dvd _ hsn, h1, Nat.mod_mod_of_dvd _ hsn]
    have := (ZMod.natCast_eq_natCast_iff' (a ^ (n - 1)) 1 s).2 h
    exact_mod_cast this
  have e2 : (a : ZMod s) ^ ((n - 1) / r) ≠ 1 := fun e => by
    have h : (a ^ ((n - 1) / r)) % s = 1 % s :=
      (ZMod.natCast_eq_natCast_iff' _ _ s).1 (by exact_mod_cast e)
    have hd : s ∣ a ^ ((n - 1) / r) % n + (n - 1) := by
      apply Nat.dvd_of_mod_eq_zero
      rw [Nat.add_mod, Nat.mod_mod_of_dvd _ hsn, h, ← Nat.add_mod, show 1 + (n - 1) = n by omega]
      exact Nat.mod_eq_zero_of_dvd hsn
    exact hs.one_lt.ne' (Nat.dvd_one.1 (h2 ▸ Nat.dvd_gcd hd hsn))
  have ha : (a : ZMod s) ≠ 0 := fun h0 => by
    have hk : (n - 1) / r ≠ 0 := fun hk => e2 (by rw [hk, pow_zero])
    have hk1 : n - 1 ≠ 0 := fun h => hk (by rw [h, Nat.zero_div])
    rw [h0, zero_pow hk1] at e1
    exact zero_ne_one e1
  have ho : orderOf (a : ZMod s) ∣ s - 1 := orderOf_dvd_of_pow_eq_one (ZMod.pow_card_sub_one_eq_one ha)
  have ho1 : orderOf (a : ZMod s) ∣ n - 1 := orderOf_dvd_of_pow_eq_one e1
  by_contra hnd
  have hc : Nat.Coprime (orderOf (a : ZMod s)) r :=
    ((hr.coprime_iff_not_dvd).2 fun h => hnd (h.trans ho)).symm
  refine e2 (orderOf_dvd_iff_pow_eq_one.1 (hc.dvd_of_dvd_mul_right ?_))
  rwa [Nat.div_mul_cancel hrn]

/-- Pocklington's criterion: a number whose prime divisors are all 1 modulo `f`, with `n ≤ f^2`, is prime. -/
theorem prime_of_factor {n f : Nat} (hn : 1 < n) (hf : n ≤ f * f)
    (h : ∀ s, s.Prime → s ∣ n → f ∣ s - 1) : n.Prime := by
  have hp := Nat.minFac_prime hn.ne'
  by_contra hc
  have h1 := Nat.minFac_sq_le_self (by omega) hc
  have h2 := Nat.le_of_dvd (by have := hp.two_le; omega) (h _ hp (Nat.minFac_dvd n))
  have h3 : f + 1 ≤ n.minFac := by have := hp.two_le; omega
  nlinarith

/-- The criterion with one prime factor of `n - 1`. -/
theorem prime_of_witness {n r : Nat} (a : Nat) (hr : r.Prime) (hn : 1 < n) (hrn : r ∣ n - 1) (hf : n ≤ r * r)
    (h1 : powMod n a (n - 1) = 1 % n) (h2 : Nat.gcd (powMod n a ((n - 1) / r) + (n - 1)) n = 1) : n.Prime :=
  prime_of_factor hn hf fun _ hs hsn => dvd_pred_of_witness a hr hrn h1 h2 (by omega) hs hsn

theorem prime_34 : Nat.Prime 13090036741 := by
  refine prime_of_witness (r := 421987) 2 (by norm_num) ?_ ?_ ?_ ?_ ?_ <;> decide +kernel

theorem prime_72 : Nat.Prime 3819663927398918131021 := by
  refine prime_of_factor (f := 19 * 13090036741) (by decide +kernel) (by decide +kernel) fun s hs hsn =>
    Nat.Coprime.mul_dvd_of_dvd_of_dvd (by decide +kernel) ?_ ?_
  · exact dvd_pred_of_witness 2 (by norm_num) (by decide +kernel) (by decide +kernel) (by decide +kernel)
      (by decide +kernel) hs hsn
  · exact dvd_pred_of_witness 2 prime_34 (by decide +kernel) (by decide +kernel) (by decide +kernel)
      (by decide +kernel) hs hsn

theorem prime_120 : Nat.Prime 1125266252156850182658904441386709967 := by
  refine prime_of_witness 2 prime_72 ?_ ?_ ?_ ?_ ?_ <;> decide +kernel

theorem prime_234 : Nat.Prime 15778400344354997994418419698270088123916926905054652752758194827714659 := by
  refine prime_of_witness 2 prime_120 ?_ ?_ ?_ ?_ ?_ <;> decide +kernel

theorem bls381P_prime : bls381P.Prime := by
  refine prime_of_witness 2 prime_234 ?_ ?_ ?_ ?_ ?_ <;> decide +kernel

/-! The check of R9. -/

/-- The test of the modulus is exact. -/
theorem primeTest_iff (n : Nat) : primeTest n = true ↔ n.Prime := by
  rw [primeTest, Bool.or_eq_true, Bool.and_eq_true, decide_eq_true_eq, beq_iff_eq, prime_iff_noDivisor]
  exact or_iff_right_of_imp fun h => h ▸ bls381P_prime

end Sys2Proof.Machine

namespace Sys2Proof

/-- The check of a step is `CfgWF`. -/
theorem Config.wf_iff (c : Config) : c.WF ↔ c.wfCheck = true :=
  and_iff_right_of_imp fun h => (Machine.primeTest_iff c.p).1 (by
    simp only [Config.wfCheck, Machine.modulusOk, Bool.and_eq_true] at h
    exact h.1.1)

end Sys2Proof
end

