-- ==== Sys2Proof/Tests/Slice0.lean ====
section
/-! SUPPORT. Tests. Words written out from the encodings of rule R94; one step at a time on small states with
values from 95_test_vectors.md; and for every statement with hypotheses a state and operands that meet them,
at the ends of the ranges too. -/

namespace Sys2Proof.Tests

open Sys2Proof Sys2Proof.Machine

-- One proof at a time: each asks for much stack, and all at once would ask for more than there is.
set_option Elab.async false

/-! ## Well-formedness (R91): the count of MOV and ZERO -/

theorem test_wf_mov_count_zero_refused : (Instr.mov 1 2 0).wf = false := by decide +kernel

theorem test_wf_zero_count_zero_refused : (Instr.zero 1 0).wf = false := by decide +kernel

theorem test_wf_counts_accepted :
    (Instr.mov 1 2 1).wf = true ∧ (Instr.mov 1 2 127).wf = true ∧ (Instr.zero 1 1).wf = true := by decide +kernel

/-! ## Decoding: one word for every command, each field at its place (R91, R94) -/

theorem test_decode_data :
    ([(0x00000000, .nop), (0x01FFABCD, (.ldfe 127 109517)), (0x02FFABCD, (.stfe 127 109517)),
      (0x03FFABCD, (.ldraw 127 109517)), (0x04FFABCD, (.straw 127 109517)),
      (0x050BABCD, (.ldk 5 109517)), (0x060BABCD, (.stk 5 109517)), (0x070BABCD, (.ldki 5 109517)),
      (0x08FF02A8, (.mov 127 64 85)), (0x09FE0200, (.zero 127 64)), (0x0AFE0000, (.one 127))] : List (Word × Instr)).all
      (fun x => decode x.1 == .ok x.2 && encode x.2 == x.1) = true := by decide +kernel

theorem test_decode_units :
    ([(0x10FF02A8, (.mmul 127 64 85)), (0x11FF02A8, (.bmul 127 64 85)),
      (0x12FF0000, (.tomont 127 64)), (0x13FF0000, (.frommont 127 64))] : List (Word × Instr)).all
      (fun x => decode x.1 == .ok x.2 && encode x.2 == x.1) = true := by decide +kernel

theorem test_decode_fp :
    ([(0x20FF02A8, (.fadd 127 64 85)), (0x21FF02A8, (.fsub 127 64 85)),
      (0x22FF02A8, (.fmul 127 64 85)), (0x23FF0000, (.fsqr 127 64)), (0x24FF0000, (.fneg 127 64)),
      (0x25FF0000, (.finv 127 64)), (0x26FF0028, (.fpow 127 64 5)), (0x27FF0000, (.fsqrt 127 64)),
      (0x2801FC00, (.fisz 127)), (0x2901FE00, (.feq 127 64)), (0x2A01FE00, (.flt 127 64)),
      (0x2B01FC00, (.fissq 127)), (0x2C01FC00, (.fsign 127)), (0x2D01FF84, (.fbit 127 900)),
      (0x2EFF02A8, (.ffrob 127 64 85))] : List (Word × Instr)).all
      (fun x => decode x.1 == .ok x.2 && encode x.2 == x.1) = true := by decide +kernel

theorem test_decode_fp2 :
    ([(0x30FF02A8, (.f2add 127 64 85)), (0x31FF02A8, (.f2sub 127 64 85)),
      (0x32FF02A8, (.f2mul 127 64 85)), (0x33FF0000, (.f2sqr 127 64)), (0x34FF0000, (.f2neg 127 64)),
      (0x35FF0000, (.f2inv 127 64)), (0x36FF02A8, (.f2frob 127 64 85)), (0x3701FC00, (.f2isz 127)),
      (0x3801FE00, (.f2eq 127 64))] : List (Word × Instr)).all
      (fun x => decode x.1 == .ok x.2 && encode x.2 == x.1) = true := by decide +kernel

theorem test_decode_fp3 :
    ([(0x40FF02A8, (.f3add 127 64 85)), (0x41FF02A8, (.f3sub 127 64 85)),
      (0x42FF02A8, (.f3mul 127 64 85)), (0x43FF0000, (.f3sqr 127 64)), (0x44FF0000, (.f3neg 127 64)),
      (0x45FF0000, (.f3inv 127 64)), (0x46FF02A8, (.f3frob 127 64 85)), (0x4701FC00, (.f3isz 127)),
      (0x4801FE00, (.f3eq 127 64))] : List (Word × Instr)).all
      (fun x => decode x.1 == .ok x.2 && encode x.2 == x.1) = true := by decide +kernel

theorem test_decode_fp6 :
    ([(0x50FF02A8, (.f6add 127 64 85)), (0x51FF02A8, (.f6sub 127 64 85)),
      (0x52FF02A8, (.f6mul 127 64 85)), (0x53FF0000, (.f6sqr 127 64)), (0x54FF0000, (.f6neg 127 64)),
      (0x55FF0000, (.f6inv 127 64)), (0x56FF02A8, (.f6frob 127 64 85)), (0x5701FC00, (.f6isz 127)),
      (0x5801FE00, (.f6eq 127 64))] : List (Word × Instr)).all
      (fun x => decode x.1 == .ok x.2 && encode x.2 == x.1) = true := by decide +kernel

theorem test_decode_fp12 :
    ([(0x60FF02A8, (.f12add 127 64 85)), (0x61FF02A8, (.f12sub 127 64 85)),
      (0x62FF02A8, (.f12mul 127 64 85)), (0x63FF0000, (.f12sqr 127 64)),
      (0x64FF0000, (.f12neg 127 64)), (0x65FF0000, (.f12inv 127 64)),
      (0x66FF02A8, (.f12frob 127 64 85)), (0x6701FC00, (.f12isz 127)), (0x6801FE00, (.f12eq 127 64)),
      (0x69FF0000, (.f12uinv 127 64)), (0x6AFF0000, (.f12csqr 127 64)),
      (0x6BFF0028, (.f12cexp 127 64 5))] : List (Word × Instr)).all
      (fun x => decode x.1 == .ok x.2 && encode x.2 == x.1) = true := by decide +kernel

theorem test_decode_g1 :
    ([(0x70FF0000, (.pdbl 127 64)), (0x71FF02A8, (.padd 127 64 85)),
      (0x72FF02A8, (.pmadd 127 64 85)), (0x73FF0000, (.pneg 127 64)), (0x74FF0000, (.paff 127 64)),
      (0x7501FC00, (.pisid 127)), (0x7601FE00, (.peq 127 64)), (0x7701FC00, (.piswf 127)),
      (0x78FE0000, (.pzero 127)), (0x79FE0000, (.pone 127)), (0x7AFF0028, (.psmul 127 64 5)),
      (0x7BFF002E, (.psmulw 127 64 5 6)), (0x7C0A1800, (.winsel1 5 6))] : List (Word × Instr)).all
      (fun x => decode x.1 == .ok x.2 && encode x.2 == x.1) = true := by decide +kernel

theorem test_decode_g2 :
    ([(0x80FF0000, (.qdbl 127 64)), (0x81FF02A8, (.qadd 127 64 85)),
      (0x82FF02A8, (.qmadd 127 64 85)), (0x83FF0000, (.qneg 127 64)), (0x84FF0000, (.qaff 127 64)),
      (0x8501FC00, (.qisid 127)), (0x8601FE00, (.qeq 127 64)), (0x8701FC00, (.qiswf 127)),
      (0x88FE0000, (.qzero 127)), (0x89FE0000, (.qone 127)), (0x8AFF0028, (.qsmul 127 64 5)),
      (0x8BFF002E, (.qsmulw 127 64 5 6)), (0x8C0A1800, (.winsel2 5 6))] : List (Word × Instr)).all
      (fun x => decode x.1 == .ok x.2 && encode x.2 == x.1) = true := by decide +kernel

theorem test_decode_pairing :
    ([(0x9001FC01, (.precomp 1 127)), (0x91FF0001, (.miller 127 64 1)),
      (0x92FF02A8, (.miller2 127 64 85)), (0x93FF0000, (.fexpe 127 64)),
      (0x94FF0000, (.fexph 127 64)), (0x95FF0000, (.fexp 127 64)), (0x96FF0000, (.expz 127 64)),
      (0x97FF02A8, (.pair 127 64 85)), (0x98FF02A8, (.pairr 127 64 85))] : List (Word × Instr)).all
      (fun x => decode x.1 == .ok x.2 && encode x.2 == x.1) = true := by decide +kernel

/-- Words R93 and R100 call illegal: a reserved opcode, and a must-be-zero field that is not zero. -/
theorem test_decode_illegal :
    ([0xFF000000, 0x0B000000, 0x00020000, 0x20020819, 0x23020808, 0x26020840, 0x05100000, 0x08020800,
      0x90002802, 0x7C022400] : List Word).all (fun w => decodeTableWord 32 w.toNat == none) = true := by
  decide +kernel

/-! ## Configurations (95_test_vectors.md section 1) -/

theorem toyBN_wf : toyBN.WF := ⟨by norm_num [toyBN], by decide +kernel⟩

theorem toyBLS12_wf : toyBLS12.WF := ⟨by norm_num [toyBLS12], by decide +kernel⟩

theorem toyBN2over3_wf : toyBN2over3.WF := ⟨by norm_num [toyBN2over3, toyBN], by decide +kernel⟩

theorem test_cfg_square_nonresidue_refused : ({ toyBN with nr2 := 4 } : Config).wfCheck = false := by
  decide +kernel

/-- Section 1.4: BLS12-381-G1 takes the default of RBITS, 384, and is well formed. -/
theorem test_cfg_bls381 : bls381G1.rbits = 384 ∧ bls381G1.wfCheck = true := by decide +kernel

/-- R9: `P` is prime: 1022117 = 1009 * 1013 has no small factor. -/
theorem test_cfg_composite_refused : primeTest 1022117 = false ∧ primeTest 1022137 = true := by
  decide +kernel

/-- Section 1.1: the derived constants of TOY-BN and the steps of section 4.3. -/
theorem test_derived_constants :
    (montPInv toyBN, redc toyBN 10404, barrettMu toyBN, barrettReduce toyBN 1260, twoInv toyBN,
      (twistB toyBN).c0, (twistB toyBN).c1) = (87, 68, 159, 24, 52, 2, 102) := by decide +kernel

/-! ## One step of a command (95_test_vectors.md sections 3 to 8) -/

/-- TOY-BN after reset with canonical values loaded from cell `b` and a value in every integer register. -/
def st (b : Nat) (vs : List Nat) (k : Nat := 5) : State :=
  { setValues (State.resetOf toyBN) b vs with
      k := Vector.replicate 8 (BitVec.ofNat 768 k), kv := Vector.replicate 8 true }

/-- The canonical values of the `n` cells from `b` after the command. -/
def out (i : Instr) (s : State) (b n : Nat) : Option (List Nat) :=
  (nextOf (exec i s)).map fun t => (List.range n).map fun j => canon t (b + j)

/-- The raw contents. -/
def outRaw (i : Instr) (s : State) (b n : Nat) : Option (List Nat) :=
  (nextOf (exec i s)).map fun t => (List.range n).map fun j => rawCell t (b + j)

/-- The test flag after the command. -/
def flag (i : Instr) (s : State) : Option Bool := (nextOf (exec i s)).map (·.t)

/-- The fault code after the command; 0 when it completed. -/
def code (i : Instr) (s : State) : Option (BitVec 4) := (nextOf (exec i s)).map (·.fcode)

/-- An integer register after the command. -/
def reg (i : Instr) (s : State) (r : KIdx) : Option Nat := (nextOf (exec i s)).map (kReg · r)

/-- A byte of XMEM after the command. -/
def byte (i : Instr) (s : State) (a : Nat) : Option Byte := (nextOf (exec i s)).map (memRead ·.xmem a)

/-- The state of section 4. -/
def fpState : State := st 1 [5, 7, 0, 1, 102, 100, 52]

/-- `c` of section 6: an element of the cyclotomic subgroup of TOY-BN. -/
def cyclo : List Nat := [14, 58, 65, 61, 46, 101, 41, 15, 29, 41, 21, 47]

/-- The start of section 8: `G` in the cells 0 to 2, `Q` in the cells 10 to 15. -/
def pairState : State := st 0 [2, 42, 1, 0, 0, 0, 0, 0, 0, 0, 86, 29, 88, 47, 1, 0]

/-- The bank of section 8.1. -/
def bankQ : Bank := ⟨⟨86, 29⟩, ⟨88, 47⟩,
  [⟨⟨101, 66⟩, ⟨95, 29⟩, ⟨30, 9⟩⟩, ⟨⟨17, 30⟩, ⟨15, 93⟩, ⟨102, 57⟩⟩, ⟨⟨9, 19⟩, ⟨31, 85⟩, ⟨82, 45⟩⟩]⟩

theorem test_nop_completes :
    (nextOf (exec .nop State.reset)).map (fun t => (t.done, t.busy, t.fault)) = some (true, false, false) := by
  decide +kernel

theorem test_mov_overlap : out (.mov 2 0 4) (st 0 [1, 2, 3, 4, 5, 6]) 0 6 = some [1, 2, 1, 2, 3, 4] := by
  decide +kernel

theorem test_mov_uninit : code (.mov 10 5 2) (st 0 [1, 2, 3, 4, 5, 6]) = some 4 := by decide +kernel

theorem test_zero : out (.zero 0 3) (st 0 [1, 2, 3, 4, 5, 6]) 0 4 = some [0, 0, 0, 4] := by decide +kernel

theorem test_zero_regrange : code (.zero 126 3) (st 0 [1, 2, 3, 4, 5, 6]) = some 3 := by decide +kernel

theorem test_one : outRaw (.one 11) State.reset 11 1 = some [50] := by decide +kernel

theorem test_ldfe :
    outRaw (.ldfe 1 0x20) { State.reset with xmem := memWrite [] 0x20 102 } 1 1 = some [53] := by
  decide +kernel

theorem test_ldraw :
    outRaw (.ldraw 1 0x20) { State.reset with xmem := memWrite [] 0x20 102 } 1 1 = some [102] := by
  decide +kernel

theorem test_ldfe_range : code (.ldfe 1 0x20) { State.reset with xmem := memWrite [] 0x20 103 } = some 6 := by
  decide +kernel

theorem test_ldfe_xaddr : code (.ldfe 0 0x1000) State.reset = some 5 := by decide +kernel

theorem test_stfe : byte (.stfe 2 0x41) (st 1 [9, 81]) 0x41 = some 81 := by decide +kernel

theorem test_straw : byte (.straw 2 0x42) (st 1 [9, 81]) 0x42 = some 33 := by decide +kernel

theorem test_ldk_big_endian :
    reg (.ldk 1 0x100) { State.reset with xmem := memWriteList [] 0x100 [0x34, 0x12], ctrl := 4 } 1 = some (0x3412 * 2 ^ 752) := by
  decide +kernel

theorem test_ldk_xaddr : code (.ldk 1 0xFA1) State.reset = some 5 := by decide +kernel

theorem test_stk_big_endian : byte (.stk 0 0x200) { st 0 [] 0x1234 with ctrl := 4 } 0x25F = some 0x34 := by
  decide +kernel

theorem test_stk_last_address : code (.stk 7 0xFA0) (st 0 []) = some 0 := by decide +kernel

theorem test_ldki : reg (.ldki 7 0x1FFFF) State.reset 7 = some 131071 := by decide +kernel

theorem test_mmul : outRaw (.mmul 10 1 2) fpState 10 1 = some [102] := by decide +kernel

theorem test_bmul : outRaw (.bmul 10 1 2) fpState 10 1 = some [53] := by decide +kernel

theorem test_tomont : outRaw (.tomont 10 1) fpState 10 1 = some [37] := by decide +kernel

theorem test_frommont : outRaw (.frommont 10 1) fpState 10 1 = some [5] := by decide +kernel

theorem test_fadd_wraps : out (.fadd 10 5 2) fpState 10 1 = some [6] := by decide +kernel

theorem test_fsub_borrows : out (.fsub 10 1 2) fpState 10 1 = some [101] := by decide +kernel

theorem test_fmul : out (.fmul 10 1 2) fpState 10 1 = some [35] := by decide +kernel

theorem test_fsqr : out (.fsqr 10 2) fpState 10 1 = some [49] := by decide +kernel

theorem test_fneg_zero : out (.fneg 10 3) fpState 10 1 = some [0] := by decide +kernel

theorem test_fneg : out (.fneg 10 1) fpState 10 1 = some [98] := by decide +kernel

theorem test_finv : out (.finv 10 1) fpState 10 1 = some [62] := by decide +kernel

theorem test_ffrob : out (.ffrob 10 1 5) fpState 10 1 = some [5] := by decide +kernel

theorem test_fsqrt_seven : out (.fsqrt 10 2) fpState 10 1 = some [25] := by decide +kernel

theorem test_fpow_five : out (.fpow 10 1 0) fpState 10 1 = some [35] := by decide +kernel

theorem test_fpow_zero_base : out (.fpow 10 3 0) fpState 10 1 = some [0] := by decide +kernel

theorem test_finv_zero : code (.finv 10 3) fpState = some 7 := by decide +kernel

theorem test_fsqrt_nonsquare : code (.fsqrt 10 1) fpState = some 8 := by decide +kernel

theorem test_fisz : flag (.fisz 3) { fpState with t := false } = some true := by decide +kernel

theorem test_feq : flag (.feq 1 2) { fpState with t := true } = some false := by decide +kernel

theorem test_flt_canonical : flag (.flt 1 2) { fpState with t := false } = some true := by decide +kernel

theorem test_flt_same : flag (.flt 1 1) { fpState with t := true } = some false := by decide +kernel

theorem test_fissq : flag (.fissq 2) { fpState with t := false } = some true := by decide +kernel

theorem test_fissq_zero : flag (.fissq 3) { fpState with t := true } = some false := by decide +kernel

theorem test_fsign : flag (.fsign 7) { fpState with t := false } = some true := by decide +kernel

theorem test_fbit : flag (.fbit 1 2) { fpState with t := false } = some true := by decide +kernel

theorem test_fbit_past : flag (.fbit 1 900) { fpState with t := true } = some false := by decide +kernel

theorem test_f2add : out (.f2add 10 0 2) (st 0 [3, 4, 5, 6, 0, 0]) 10 2 = some [8, 10] := by decide +kernel

theorem test_f2sub : out (.f2sub 10 0 2) (st 0 [3, 4, 5, 6, 0, 0]) 10 2 = some [101, 101] := by
  decide +kernel

theorem test_f2mul : out (.f2mul 10 0 2) (st 0 [3, 4, 5, 6, 0, 0]) 10 2 = some [94, 38] := by
  decide +kernel

theorem test_f2sqr : out (.f2sqr 10 0) (st 0 [3, 4, 5, 6, 0, 0]) 10 2 = some [96, 24] := by decide +kernel

theorem test_f2neg : out (.f2neg 10 0) (st 0 [3, 4, 5, 6, 0, 0]) 10 2 = some [100, 99] := by decide +kernel

theorem test_f2inv : out (.f2inv 10 0) (st 0 [3, 4, 5, 6, 0, 0]) 10 2 = some [99, 74] := by decide +kernel

theorem test_f2frob : out (.f2frob 10 0 3) (st 0 [3, 4, 5, 6, 0, 0]) 10 2 = some [3, 99] := by
  decide +kernel

theorem test_f2inv_zero : code (.f2inv 10 4) (st 0 [3, 4, 5, 6, 0, 0]) = some 7 := by decide +kernel

theorem test_f2isz : flag (.f2isz 4) (st 0 [3, 4, 5, 6, 0, 0]) = some true := by decide +kernel

theorem test_f2eq : flag (.f2eq 0 2) { st 0 [3, 4, 5, 6, 0, 0] with t := true } = some false := by
  decide +kernel

theorem test_f3add : out (.f3add 10 0 3) (st 0 [1, 2, 3, 4, 5, 6]) 10 3 = some [5, 7, 9] := by
  decide +kernel

theorem test_f3sub : out (.f3sub 10 0 3) (st 0 [1, 2, 3, 4, 5, 6]) 10 3 = some [100, 100, 100] := by
  decide +kernel

theorem test_f3mul : out (.f3mul 10 0 3) (st 0 [1, 2, 3, 4, 5, 6]) 10 3 = some [36, 0, 28] := by
  decide +kernel

theorem test_f3sqr : out (.f3sqr 10 0) (st 0 [1, 2, 3, 4, 5, 6]) 10 3 = some [61, 49, 10] := by
  decide +kernel

theorem test_f3neg : out (.f3neg 10 0) (st 0 [1, 2, 3, 4, 5, 6]) 10 3 = some [102, 101, 100] := by
  decide +kernel

theorem test_f3inv : out (.f3inv 10 0) (st 0 [1, 2, 3, 4, 5, 6]) 10 3 = some [35, 44, 13] := by
  decide +kernel

theorem test_f3frob : out (.f3frob 10 0 4) (st 0 [1, 2, 3, 4, 5, 6]) 10 3 = some [1, 9, 35] := by
  decide +kernel

theorem test_f3isz : flag (.f3isz 0) { st 0 [0, 0, 0] with t := false } = some true := by decide +kernel

theorem test_f3eq : flag (.f3eq 0 3) (st 0 [1, 2, 3, 1, 2, 3]) = some true := by decide +kernel

theorem test_f6add : out (.f6add 20 0 6) (st 0 (List.range' 1 12)) 20 6 = some [8, 10, 12, 14, 16, 18] := by
  decide +kernel

theorem test_f6sub : out (.f6sub 20 0 6) (st 0 (List.range' 1 12)) 20 6 = some [97, 97, 97, 97, 97, 97] := by
  decide +kernel

theorem test_f6mul_in_place :
    out (.f6mul 0 0 6) (st 0 (List.range' 1 12)) 0 6 = some [56, 51, 24, 6, 64, 79] := by
  decide +kernel

theorem test_f6sqr : out (.f6sqr 20 0) (st 0 (List.range' 1 12)) 20 6 = some [91, 35, 11, 26, 82, 56] := by
  decide +kernel

theorem test_f6neg : out (.f6neg 20 0) (st 0 (List.range' 1 12)) 20 6 = some [102, 101, 100, 99, 98, 97] := by
  decide +kernel

theorem test_f6inv : out (.f6inv 20 0) (st 0 (List.range' 1 12)) 20 6 = some [77, 34, 73, 51, 45, 69] := by
  decide +kernel

theorem test_f6frob :
    out (.f6frob 20 0 7) (st 0 (List.range' 1 12)) 20 6 = some [1, 101, 90, 60, 99, 100] := by
  decide +kernel

theorem test_f6mul_2over3 :
    out (.f6mul 20 0 6) { st 0 (List.range' 1 12) with cfg := toyBN2over3 } 20 6 = some [2, 3, 88, 67, 33, 79] := by
  decide +kernel

theorem test_f6sqr_2over3 :
    out (.f6sqr 20 0) { st 0 (List.range' 1 12) with cfg := toyBN2over3 } 20 6 = some [14, 56, 24, 72, 0, 56] := by
  decide +kernel

theorem test_f6inv_2over3 :
    out (.f6inv 20 0) { st 0 (List.range' 1 12) with cfg := toyBN2over3 } 20 6 = some [46, 92, 68, 18, 65, 44] := by
  decide +kernel

theorem test_f6frob_2over3 :
    out (.f6frob 20 0 1) { st 0 (List.range' 1 12) with cfg := toyBN2over3 } 20 6 = some [1, 9, 35, 22, 98, 76] := by
  decide +kernel

theorem test_f6isz : flag (.f6isz 1) { st 0 (List.range' 1 12) with t := true } = some false := by
  decide +kernel

theorem test_f6eq : flag (.f6eq 0 0) (st 0 (List.range' 1 12)) = some true := by decide +kernel

theorem test_f12add :
    out (.f12add 40 0 12) (st 0 (List.range' 1 24)) 40 12 = some [14, 16, 18, 20, 22, 24, 26, 28, 30, 32, 34, 36] := by
  decide +kernel

theorem test_f12sub :
    out (.f12sub 40 0 12) (st 0 (List.range' 1 24)) 40 12 = some (List.replicate 12 91) := by
  decide +kernel

theorem test_f12mul :
    out (.f12mul 40 0 12) (st 0 (List.range' 1 24)) 40 12 = some [69, 21, 71, 32, 99, 88, 96, 62, 59, 96, 56, 64] := by
  decide +kernel

theorem test_f12sqr :
    out (.f12sqr 40 0) (st 0 (List.range' 1 24)) 40 12 = some [71, 99, 94, 41, 47, 21, 9, 102, 48, 12, 25, 55] := by
  decide +kernel

theorem test_f12neg :
    out (.f12neg 40 0) (st 0 (List.range' 1 24)) 40 12 = some [102, 101, 100, 99, 98, 97, 96, 95, 94, 93, 92, 91] := by
  decide +kernel

theorem test_f12inv :
    out (.f12inv 40 0) (st 0 (List.range' 1 24)) 40 12 = some [67, 64, 71, 87, 6, 14, 71, 4, 37, 90, 73, 66] := by
  decide +kernel

theorem test_f12uinv :
    out (.f12uinv 40 0) (st 0 (List.range' 1 24)) 40 12 = some [1, 2, 3, 4, 5, 6, 96, 95, 94, 93, 92, 91] := by
  decide +kernel

theorem test_f12frob :
    out (.f12frob 40 0 13) (st 0 (List.range' 1 24)) 40 12 = some [1, 101, 90, 60, 99, 100, 69, 54, 39, 96, 75, 49] := by
  decide +kernel

theorem test_f12isz : flag (.f12isz 0) (st 0 (List.replicate 12 0)) = some true := by decide +kernel

theorem test_f12eq : flag (.f12eq 0 12) { st 0 (List.range' 1 24) with t := true } = some false := by
  decide +kernel

theorem test_f12csqr :
    out (.f12csqr 80 60) (st 60 cyclo) 80 12 = some [27, 24, 55, 45, 31, 52, 23, 99, 71, 22, 2, 34] := by
  decide +kernel

theorem test_f12cexp :
    out (.f12cexp 80 60 2) (st 60 cyclo 11) 80 12 = some [80, 37, 87, 6, 76, 40, 100, 62, 63, 86, 13, 55] := by
  decide +kernel

theorem test_f12cexp_zero :
    out (.f12cexp 80 60 2) (st 60 cyclo 0) 80 12 = some [1, 0, 0, 0, 0, 0, 0, 0, 0, 0, 0, 0] := by
  decide +kernel

theorem test_expz : out (.expz 80 60) (st 60 cyclo) 80 12 = some cyclo := by decide +kernel

theorem test_fexph :
    out (.fexph 80 60) (st 60 cyclo) 80 12 = some [83, 74, 82, 91, 2, 37, 25, 66, 55, 48, 75, 94] := by
  decide +kernel

theorem test_fexpe : out (.fexpe 60 0) (st 0 (List.range' 1 12)) 60 12 = some cyclo := by decide +kernel

theorem test_fexp :
    out (.fexp 100 0) (st 0 (List.range' 1 12)) 100 12 = some [83, 74, 82, 91, 2, 37, 25, 66, 55, 48, 75, 94] := by
  decide +kernel

theorem test_fexp_zero : code (.fexp 100 0) (st 0 (List.replicate 12 0)) = some 7 := by decide +kernel

theorem test_pdbl :
    out (.pdbl 20 0) (st 0 [2, 42, 1, 0, 1, 0, 39, 46, 84, 78, 6, 19, 81, 2]) 20 3 = some [39, 46, 84] := by
  decide +kernel

theorem test_padd :
    out (.padd 20 6 0) (st 0 [2, 42, 1, 0, 1, 0, 39, 46, 84, 78, 6, 19, 81, 2]) 20 3 = some [19, 81, 2] := by
  decide +kernel

theorem test_padd_same :
    out (.padd 20 0 0) (st 0 [2, 42, 1, 0, 1, 0, 39, 46, 84, 78, 6, 19, 81, 2]) 20 3 = some [39, 46, 84] := by
  decide +kernel

theorem test_pmadd :
    out (.pmadd 20 11 9) (st 0 [2, 42, 1, 0, 1, 0, 39, 46, 84, 78, 6, 19, 81, 2]) 20 3 = some [59, 89, 39] := by
  decide +kernel

theorem test_pmadd_same :
    out (.pmadd 20 6 9) (st 0 [2, 42, 1, 0, 1, 0, 39, 46, 84, 78, 6, 19, 81, 2]) 20 3 = some [72, 4, 3] := by
  decide +kernel

theorem test_pneg :
    out (.pneg 20 0) (st 0 [2, 42, 1, 0, 1, 0, 39, 46, 84, 78, 6, 19, 81, 2]) 20 3 = some [2, 61, 1] := by
  decide +kernel

theorem test_psmul :
    out (.psmul 20 0 0) (st 0 [2, 42, 1, 0, 1, 0, 39, 46, 84, 78, 6, 19, 81, 2]) 20 3 = some [52, 3, 88] := by
  decide +kernel

theorem test_psmulw :
    out (.psmulw 20 0 0 2) (st 0 [2, 42, 1, 0, 1, 0, 39, 46, 84, 78, 6, 19, 81, 2]) 20 3 = some [7, 64, 36] := by
  decide +kernel

theorem test_pzero :
    out (.pzero 20) (st 0 [2, 42, 1, 0, 1, 0, 39, 46, 84, 78, 6, 19, 81, 2]) 20 3 = some [0, 1, 0] := by
  decide +kernel

theorem test_pone :
    out (.pone 20) (st 0 [2, 42, 1, 0, 1, 0, 39, 46, 84, 78, 6, 19, 81, 2]) 20 3 = some [2, 42, 1] := by
  decide +kernel

theorem test_paff :
    out (.paff 20 6) (st 0 [2, 42, 1, 0, 1, 0, 39, 46, 84, 78, 6, 19, 81, 2]) 20 2 = some [78, 6] := by
  decide +kernel

theorem test_paff_identity :
    code (.paff 20 3) (st 0 [2, 42, 1, 0, 1, 0, 39, 46, 84, 78, 6, 19, 81, 2]) = some 9 := by
  decide +kernel

theorem test_pisid :
    flag (.pisid 3) (st 0 [2, 42, 1, 0, 1, 0, 39, 46, 84, 78, 6, 19, 81, 2]) = some true := by
  decide +kernel

theorem test_peq :
    flag (.peq 6 0) { st 0 [2, 42, 1, 0, 1, 0, 39, 46, 84, 78, 6, 19, 81, 2] with t := true } = some false := by
  decide +kernel

theorem test_peq_identities :
    flag (.peq 3 3) (st 0 [2, 42, 1, 0, 1, 0, 39, 46, 84, 78, 6, 19, 81, 2]) = some true := by
  decide +kernel

theorem test_piswf :
    flag (.piswf 6) (st 0 [2, 42, 1, 0, 1, 0, 39, 46, 84, 78, 6, 19, 81, 2]) = some true := by
  decide +kernel

theorem test_piswf_off_curve : flag (.piswf 0) { st 0 [1, 1, 1] with t := true } = some false := by
  decide +kernel

theorem test_winsel1 : reg (.winsel1 2 1) (st 0 [] 10) 2 = some 3 := by decide +kernel

theorem test_winsel1_none : reg (.winsel1 2 1) (st 0 [] 1000) 2 = some 22 := by decide +kernel

theorem test_winsel2 : reg (.winsel2 3 1) (st 0 [] 3) 3 = some 2 := by decide +kernel

theorem test_winsel2_none : reg (.winsel2 3 1) (st 0 [] 999) 3 = some 22 := by decide +kernel

theorem test_qdbl :
    out (.qdbl 40 0) (st 0 [86, 29, 88, 47, 1, 0, 0, 0, 1, 0, 0, 0, 91, 58, 52, 18, 73, 94, 15, 84, 98, 92]) 40 6 = some [91, 58, 52, 18, 73, 94] := by
  decide +kernel

theorem test_qadd :
    out (.qadd 40 12 0) (st 0 [86, 29, 88, 47, 1, 0, 0, 0, 1, 0, 0, 0, 91, 58, 52, 18, 73, 94, 15, 84, 98, 92]) 40 6 = some [100, 69, 57, 21, 8, 59] := by
  decide +kernel

theorem test_qmadd :
    out (.qmadd 40 0 18) (st 0 [86, 29, 88, 47, 1, 0, 0, 0, 1, 0, 0, 0, 91, 58, 52, 18, 73, 94, 15, 84, 98, 92]) 40 6 = some [84, 45, 60, 56, 64, 7] := by
  decide +kernel

theorem test_qneg :
    out (.qneg 40 0) (st 0 [86, 29, 88, 47, 1, 0, 0, 0, 1, 0, 0, 0, 91, 58, 52, 18, 73, 94, 15, 84, 98, 92]) 40 6 = some [86, 29, 15, 56, 1, 0] := by
  decide +kernel

theorem test_qsmul :
    out (.qsmul 40 0 0) (st 0 [86, 29, 88, 47, 1, 0, 0, 0, 1, 0, 0, 0, 91, 58, 52, 18, 73, 94, 15, 84, 98, 92]) 40 6 = some [82, 40, 100, 1, 71, 41] := by
  decide +kernel

theorem test_qsmulw :
    out (.qsmulw 40 0 0 1) (st 0 [86, 29, 88, 47, 1, 0, 0, 0, 1, 0, 0, 0, 91, 58, 52, 18, 73, 94, 15, 84, 98, 92]) 40 6 = some [82, 40, 100, 1, 71, 41] := by
  decide +kernel

theorem test_qzero :
    out (.qzero 40) (st 0 [86, 29, 88, 47, 1, 0, 0, 0, 1, 0, 0, 0, 91, 58, 52, 18, 73, 94, 15, 84, 98, 92]) 40 6 = some [0, 0, 1, 0, 0, 0] := by
  decide +kernel

theorem test_qone :
    out (.qone 40) (st 0 [86, 29, 88, 47, 1, 0, 0, 0, 1, 0, 0, 0, 91, 58, 52, 18, 73, 94, 15, 84, 98, 92]) 40 6 = some [86, 29, 88, 47, 1, 0] := by
  decide +kernel

theorem test_qaff :
    out (.qaff 40 12) (st 0 [86, 29, 88, 47, 1, 0, 0, 0, 1, 0, 0, 0, 91, 58, 52, 18, 73, 94, 15, 84, 98, 92]) 40 4 = some [15, 84, 98, 92] := by
  decide +kernel

theorem test_qisid :
    flag (.qisid 6) (st 0 [86, 29, 88, 47, 1, 0, 0, 0, 1, 0, 0, 0, 91, 58, 52, 18, 73, 94, 15, 84, 98, 92]) = some true := by
  decide +kernel

theorem test_qeq :
    flag (.qeq 0 12) { st 0 [86, 29, 88, 47, 1, 0, 0, 0, 1, 0, 0, 0, 91, 58, 52, 18, 73, 94, 15, 84, 98, 92] with t := true } = some false := by
  decide +kernel

theorem test_qiswf :
    flag (.qiswf 12) (st 0 [86, 29, 88, 47, 1, 0, 0, 0, 1, 0, 0, 0, 91, 58, 52, 18, 73, 94, 15, 84, 98, 92]) = some true := by
  decide +kernel

theorem test_precomp :
    (nextOf (exec (.precomp 0 10) pairState)).map (fun t => (statusWord t, (recAt (bank t 0).recs 1).ell0)) = some (0x82, ⟨17, 30⟩) := by
  decide +kernel

theorem test_precomp_identity : code (.precomp 0 3) (st 3 [0, 0, 1, 0, 0, 0]) = some 9 := by decide +kernel

theorem test_miller :
    out (.miller 20 0 1) { pairState with cm := #v[zeroBank toyBN, bankQ], cmv := #v[false, true] } 20 12 = some [41, 52, 30, 89, 13, 42, 58, 62, 54, 1, 37, 75] := by
  decide +kernel

theorem test_miller_uninit : code (.miller 20 0 1) pairState = some 4 := by decide +kernel

theorem test_miller2_squares_once :
    out (.miller2 20 0 0) { pairState with cm := #v[bankQ, zeroBank toyBN], cmv := #v[true, true] } 20 12 = some [0, 0, 0, 0, 0, 0, 0, 0, 0, 0, 0, 0] := by
  decide +kernel

theorem test_pair :
    out (.pair 100 0 10) pairState 100 12 = some [41, 52, 30, 89, 13, 42, 58, 62, 54, 1, 37, 75] := by
  decide +kernel

theorem test_pairr :
    out (.pairr 100 0 10) pairState 100 12 = some [35, 83, 48, 91, 77, 86, 44, 4, 8, 36, 94, 42] := by
  decide +kernel

theorem test_pair_identity :
    code (.pair 100 30 10) (st 10 ([86, 29, 88, 47, 1, 0] ++ List.replicate 20 0)) = some 9 := by
  decide +kernel

/-! ## The host port (section 10.3) -/

theorem test_host_id_cap :
    (hostReadWord State.reset 0, hostReadWord State.reset 1, hostReadWord (State.resetOf toyBLS12) 1) =
      (0x4D530009, 0x0013BC07, 0x001FB806) := by decide +kernel

/-- A CMD write in the fault state is ignored; STATUS shows FAULT and HOSTERR. -/
theorem test_host_cmd_ignored_in_fault :
    statusWord (hostWrite { State.reset with fault := true, fcode := 4 } 4 0) = 0x14 := by decide +kernel

/-- R391, R48: while BUSY a write to ID, CAP, FCODE or FCMD sets HOSTERR, one to a reserved offset does not. -/
theorem test_host_read_only_while_busy :
    ([0, 1, 5, 6, 7] : List (BitVec 11)).map (fun h =>
      ((hostWrite { State.reset with busy := true } h 0).hosterr, (hostWrite State.reset h 0).hosterr)) =
      [(true, false), (true, false), (true, false), (true, false), (false, false)] := by decide +kernel

theorem test_host_ctrl_reserved_bits : (hostWrite State.reset 2 0x7FFFFFFF).ctrl = 7 := by decide +kernel

/-- R66: byte lane 0 of a window write is at the lowest address, in either byte order of CTRL. -/
theorem test_host_window_lanes :
    memRead (hostWrite { State.reset with ctrl := 4 } 0x410 0x31215109).xmem 0x40 = 0x09 := by decide +kernel

theorem test_pairr_zero_miller_value :
    code (.pairr 100 0 10) (st 0 [0, 0, 1, 0, 0, 0, 0, 0, 0, 0, 0, 0, 1, 0, 1, 0]) = some 7 := by
  decide +kernel

/-! ## Statements whose hypotheses are met

`full` has every cell, register and bank valid; its cells hold every raw content from 0 to `p - 1`. -/

def full : State :=
  { State.resetOf toyBN with
      f := Vector.ofFn (fun i : Fin 128 => i.val % 103), fv := Vector.replicate 128 true
      k := Vector.replicate 8 11, kv := Vector.replicate 8 true
      cm := #v[bankQ, bankQ], cmv := Vector.replicate 2 true }

/-- `full` with a 2-over-3 Fp6. -/
def full3 : State := { full with cfg := toyBN2over3 }

/-- `full` with every cell 0. -/
def zeros : State := { full with f := Vector.replicate 128 0 }

theorem full_sound : Sound full := ⟨toyBN_wf, by unfold CellsBelowP; decide +kernel⟩

theorem full3_sound : Sound full3 := ⟨toyBN2over3_wf, by unfold CellsBelowP; decide +kernel⟩

theorem zeros_sound : Sound zeros := ⟨toyBN_wf, by unfold CellsBelowP; decide +kernel⟩

theorem full_valid : ∀ j < 128, cellValid full j = true := by decide +kernel

theorem full_source (b : CellIdx) (n : Nat) (h : b.toNat + n ≤ 128) : Source full b n :=
  ⟨h, fun i hi => full_valid _ (by omega)⟩

theorem full3_valid : ∀ j < 128, cellValid full3 j = true := by decide +kernel

theorem full3_source (b : CellIdx) (n : Nat) (h : b.toNat + n ≤ 128) : Source full3 b n :=
  ⟨h, fun i hi => full3_valid _ (by omega)⟩

theorem zeros_valid : ∀ j < 128, cellValid zeros j = true := by decide +kernel

theorem zeros_source (b : CellIdx) (n : Nat) (h : b.toNat + n ≤ 128) : Source zeros b n :=
  ⟨h, fun i hi => zeros_valid _ (by omega)⟩

theorem full_inv : Inv full := by
  unfold Machine.Inv CellsBelowP BanksFull BusyClean FaultRecorded PhaseShown CtrlReserved
  decide +kernel

theorem next_of {o : Out} (h : (nextOf o).isSome = true) : ∃ t, o = .next t := by
  cases o with
  | next t => exact ⟨t, rfl⟩
  | fault f => cases h
  | refused r => cases h

/-- `w` accepted, the sequencer's step next. -/
def accepted (w : Nat) : State := full.withFetchWord 32 w

theorem witness_DecodeOfEncode :
    (Instr.mov 127 127 127).wf = true ∧ (Instr.zero 0 1).wf = true ∧ (Instr.fbit 127 1023).wf = true := by
  decide +kernel

theorem witness_EncodeOfDecode : decode 0x08FFFFF8 = .ok (.mov 127 127 127) := by decide +kernel

theorem witness_StepRunsDecoded :
    ((accepted 0x22140410).cfg.wfCheck = true ∧ (accepted 0x22140410).busy = true ∧
      decode (accepted 0x22140410).pend = .ok (.fmul 10 1 2) ∧ (accepted 0x22140410).inputs = [] ∧
      ({ accepted 0x22140410 with inputs := [.sequencer] } : State).inputs = .sequencer :: []) ∧
    (full.cfg.wfCheck = true ∧ full.busy = false ∧ full.inputs = [] ∧
      ({ full with inputs := [.sequencer] } : State).inputs = .sequencer :: []) := by
  decide +kernel

theorem not_command {w : Word} (h : decodeTableWord 32 w.toNat = none) : ∀ i, decode w ≠ .ok i := by
  intro i e
  have hw : BitVec.ofNat 32 (w.toNat % 2 ^ 32) = w := by
    rw [Nat.mod_eq_of_lt w.isLt]
    exact BitVec.ofNat_toNat _ _ |>.trans (by simp)
  simp only [decodeTableWord, hw, e] at h
  cases h

theorem witness_IllegalWordFaults :
    (accepted 0xFF000000).cfg.wfCheck = true ∧ (accepted 0xFF000000).busy = true ∧
    (accepted 0xFF000000).inputs = [] ∧ (∀ i, decode (accepted 0xFF000000).pend ≠ .ok i) ∧
    ({ accepted 0xFF000000 with inputs := [.sequencer, .hostRead 5] } : State).inputs =
      .sequencer :: [.hostRead 5] :=
  ⟨by decide +kernel, by decide +kernel, by decide +kernel, not_command (by decide +kernel), rfl⟩

/-- A legal word whose step is next, an illegal one, and one with a read of STATUS before its step. -/
theorem witness_AcceptedCommandRuns :
    full.cfg.wfCheck = true ∧ full.busy = false ∧ full.fault = false ∧
    ({ full with inputs := [.hostWrite 4 0x91280000, .sequencer] } : State).inputs =
      .hostWrite 4 0x91280000 :: .sequencer :: [] ∧ decode 0x91280000 = .ok (.miller 20 0 0) ∧
    ({ full with inputs := [.hostWrite 4 0x91280000] } : State).inputs = .hostWrite 4 0x91280000 :: [] ∧
    ({ full with inputs := [.hostWrite 4 0x91000002, .hostRead 3, .sequencer] } : State).inputs =
      .hostWrite 4 0x91000002 :: [.hostRead 3, .sequencer] ∧ decodeTableWord 32 0x91000002 = none := by
  decide +kernel

theorem witness_StepAlwaysAnswers :
    State.reset.cfg.WF ∧ ¬({ toyBN with nr2 := 4 } : Config).WF ∧ ¬({ toyBN with p := 1022117 } : Config).WF :=
  ⟨toyBN_wf, fun h => absurd h.2 (by decide +kernel), fun h => absurd h.1 (by norm_num)⟩

/-- A command that runs, one that faults, and a host write, each from a state with the invariant. -/
theorem witness_StepKeepsInvariant :
    (Inv (accepted 0x91280000) ∧ ∃ t, step (accepted 0x91280000) = .next t) ∧
    (Inv (accepted 0xFF000000) ∧ ∃ t, step (accepted 0xFF000000) = .next t) ∧
    (Inv { full with inputs := [.hostWrite 0x7FF 5] } ∧
      ∃ t, step { full with inputs := [.hostWrite 0x7FF 5] } = .next t) := by
  refine ⟨⟨?_, next_of ?_⟩, ⟨?_, next_of ?_⟩, ⟨full_inv, next_of ?_⟩⟩ <;>
    first
    | decide +kernel
    | unfold Machine.Inv CellsBelowP BanksFull BusyClean FaultRecorded PhaseShown CtrlReserved; decide +kernel

theorem witness_ConfigNeverChanges : ∃ t, step (accepted 0x22140410) = .next t :=
  next_of (by decide +kernel)

theorem witness_CheckOrder :
    Spec.present bls381G1 (.f2add 0 0 0) = false ∧
    (Spec.present toyBN (.f12add 120 0 0) = true ∧ ¬Spec.SpansFit (.f12add 120 0 0)) ∧
    (Spec.present toyBN (.f12add 117 0 0) = true ∧ ¬Spec.SpansFit (.f12add 117 0 0)) ∧
    (Spec.present toyBN (.f12add 116 0 0) = true ∧ Spec.SpansFit (.f12add 116 0 0) ∧
      ¬Spec.SourcesValid State.reset (.f12add 116 0 0)) := by
  unfold Spec.SourcesValid Spec.SpansFit
  decide +kernel

theorem witness_TestFlagWriters :
    (Spec.writesT (.qiswf 122) = true ∧ Spec.SpansFit (.qiswf 122)) ∧
    ((∃ t, exec .nop full = .next t) ∧ Spec.writesT .nop = false) ∧
    (State.reset.fault = false ∧ ∃ t, exec (.fisz 0) State.reset = .next t ∧ t.fault = true) := by
  refine ⟨⟨by decide +kernel, by unfold Spec.SpansFit; decide +kernel⟩,
    ⟨next_of (by decide +kernel), rfl⟩, rfl, ?_⟩
  exact ⟨_, rfl, by decide +kernel⟩

theorem witness_HostReads : ∀ h ∈ ([0, 1, 2, 3, 4, 5, 6, 7, 1023, 1024, 2047] : List (BitVec 11)),
    full.cfg.wfCheck = true ∧ ({ full with inputs := [.hostRead h] } : State).inputs = .hostRead h :: [] := by
  intro h _
  exact ⟨by decide +kernel, rfl⟩

theorem witness_HostRegisterWrites :
    full.cfg.wfCheck = true ∧ (0x7FFFFFFF : Word).getLsbD 31 = false ∧ full.busy = false ∧
    (accepted 0).busy = true ∧ ({ full with fault := true, fcode := 4 } : State).fault = true ∧
    (∀ h ∈ ([7, 1023] : List (BitVec 11)), 7 ≤ h.toNat ∧ h.toNat < 1024) ∧
    (∀ h : BitVec 11, ∀ s : State, ({ s with inputs := [.hostWrite h 0x7FFFFFFF] } : State).inputs =
      .hostWrite h 0x7FFFFFFF :: []) :=
  ⟨by decide +kernel, by decide +kernel, rfl, by decide +kernel, rfl, by decide +kernel, fun _ _ => rfl⟩

theorem witness_WindowWrites :
    full.cfg.wfCheck = true ∧ memWf full.xmem = true ∧ 1024 ≤ (1024 : BitVec 11).toNat ∧
    1024 ≤ (2047 : BitVec 11).toNat ∧ full.busy = false ∧ (accepted 0).busy = true ∧
    ({ full with inputs := [.hostWrite 2047 5] } : State).inputs = .hostWrite 2047 5 :: [] := by
  decide +kernel

theorem witness_SoftReset :
    (accepted 0).cfg.wfCheck = true ∧ (0x80000000 : Word).getLsbD 31 = true ∧
    ({ accepted 0 with inputs := [.hostWrite 2 0x80000000] } : State).inputs =
      .hostWrite 2 0x80000000 :: [] := by decide +kernel

theorem witness_HardReset :
    (accepted 0).cfg.wfCheck = true ∧
    ({ accepted 0 with inputs := [.hardReset [⟨5, 7⟩]] } : State).inputs = .hardReset [⟨5, 7⟩] :: [] := by
  decide +kernel

/-- The fault state, with the host writing CMD. -/
def inFault : State := { full with fault := true, fcode := 4, fcmd := 0x25FE0000, inputs := [.hostWrite 4 0] }

theorem witness_FaultIsSticky :
    Inv inFault ∧ inFault.fault = true ∧ (∃ t, step inFault = .next t) ∧
    (∀ cells es, inFault.inputs ≠ .hardReset cells :: es) ∧
    (∀ w es, inFault.inputs = .hostWrite 2 w :: es → w.getLsbD 31 = false) := by
  refine ⟨?_, rfl, next_of (by decide +kernel), ?_, ?_⟩
  · unfold Machine.Inv CellsBelowP BanksFull BusyClean FaultRecorded PhaseShown CtrlReserved
    decide +kernel
  · intro cells es h; simp [inFault] at h
  · intro w es h; simp [inFault] at h

theorem witness_RepresentationBijective :
    (toyBN.WF ∧ 0 < toyBN.p ∧ 102 < toyBN.p ∧ toyBN.redmode = .mont) ∧
    (toyBLS12.WF ∧ 36 < toyBLS12.p ∧ toyBLS12.redmode = .barrett) :=
  ⟨⟨toyBN_wf, by decide +kernel, by decide +kernel, rfl⟩, toyBLS12_wf, by decide +kernel, rfl⟩

theorem witness_MontgomeryReduction : toyBN.WF ∧ 0 < toyBN.p * montR toyBN ∧ 103 * 256 - 1 < toyBN.p * montR toyBN :=
  ⟨toyBN_wf, by decide +kernel, by decide +kernel⟩

theorem witness_BarrettReduction : toyBLS12.WF ∧ 0 < toyBLS12.p ^ 2 ∧ 37 ^ 2 - 1 < toyBLS12.p ^ 2 :=
  ⟨toyBLS12_wf, by decide +kernel, by decide +kernel⟩

/-- `full` with the byte `v` at the last address. -/
def withLast (v : Byte) : State := { full with xmem := memWrite [] 4095 v }

theorem witness_LoadElement :
    full.cfg.WF ∧ 4096 < (4096 : XAddr).toNat + (full.cfg.modbits + 7) / 8 ∧
    (4095 : XAddr).toNat + (full.cfg.modbits + 7) / 8 ≤ 4096 ∧
    (withLast 103).cfg.p ≤ bytesValue (withLast 103) 4095 1 ∧
    bytesValue (withLast 102) 4095 1 < (withLast 102).cfg.p :=
  ⟨toyBN_wf, by decide +kernel, by decide +kernel, by decide +kernel, by decide +kernel⟩

theorem witness_StoreElement :
    Sound full ∧ memWf full.xmem = true ∧ Source full 127 1 ∧
    4096 < (4096 : XAddr).toNat + (full.cfg.modbits + 7) / 8 ∧
    (4095 : XAddr).toNat + (full.cfg.modbits + 7) / 8 ≤ 4096 :=
  ⟨full_sound, by decide +kernel, full_source _ _ (by decide), by decide +kernel, by decide +kernel⟩

theorem witness_IntegerRegisters :
    memWf full.xmem = true ∧ 4096 < (4001 : XAddr).toNat + 96 ∧ (4000 : XAddr).toNat + 96 ≤ 4096 ∧
    kValid full 7 = true := by decide +kernel

theorem witness_NopMoveZeroOne :
    Sound full ∧ (127 : BitVec 7) ≠ 0 ∧ Dest 1 (127 : BitVec 7).toNat ∧ Source full 0 (127 : BitVec 7).toNat ∧
    (1 : BitVec 7) ≠ 0 ∧ Dest 127 (1 : BitVec 7).toNat ∧ Source full 127 (1 : BitVec 7).toNat :=
  ⟨full_sound, by decide, by unfold Dest; decide, full_source _ _ (by decide), by decide,
    by unfold Dest; decide, full_source _ _ (by decide)⟩

theorem witness_ReductionUnits : Sound full ∧ Source full 127 1 ∧ Source full 0 1 :=
  ⟨full_sound, full_source _ _ (by decide), full_source _ _ (by decide)⟩

theorem witness_FieldArithmetic : Sound full ∧ Source full 102 1 ∧ Source full 127 1 :=
  ⟨full_sound, full_source _ _ (by decide), full_source _ _ (by decide)⟩

theorem witness_FieldInverse :
    Sound full ∧ Source full 0 1 ∧ canon full (0 : CellIdx).toNat = 0 ∧ Source full 127 1 ∧
    canon full (127 : CellIdx).toNat ≠ 0 :=
  ⟨full_sound, full_source _ _ (by decide), by decide +kernel, full_source _ _ (by decide), by decide +kernel⟩

theorem witness_FieldPower : Sound full ∧ Source full 127 1 ∧ kValid full 7 = true :=
  ⟨full_sound, full_source _ _ (by decide), by decide +kernel⟩

/-- The cells 100 and 47 hold 2, a square, and 3, which is none. -/
theorem witness_SquareRoot :
    Sound full ∧ Source full 100 1 ∧ IsSquare (canon full (100 : CellIdx).toNat : ZMod full.cfg.p) ∧
    Source full 47 1 ∧ ¬IsSquare (canon full (47 : CellIdx).toNat : ZMod full.cfg.p) := by
  have h2 : canon full (100 : CellIdx).toNat = 2 := by decide +kernel
  have h3 : canon full (47 : CellIdx).toNat = 3 := by decide +kernel
  refine ⟨full_sound, full_source _ _ (by decide), ?_, full_source _ _ (by decide), ?_⟩
  · rw [h2]
    exact (by decide +kernel : IsSquare ((2 : ℕ) : ZMod 103))
  · rw [h3]
    exact (by decide +kernel : ¬IsSquare ((3 : ℕ) : ZMod 103))

theorem witness_FieldTests : Sound full ∧ Source full 127 1 ∧ Source full 0 1 :=
  ⟨full_sound, full_source _ _ (by decide), full_source _ _ (by decide)⟩

/-- Two sources, and one taken twice. -/
theorem witness_UnitsAgree :
    Sound full ∧ Source full 127 1 ∧ Source full 126 1 ∧
    ([0, 1, 2, 3, 4] : List CellIdx).Nodup ∧ (127 : CellIdx) ∉ ([0, 1, 2, 3, 4] : List CellIdx) ∧
    (126 : CellIdx) ∉ ([0, 1, 2, 3, 4] : List CellIdx) :=
  ⟨full_sound, full_source _ _ (by decide), full_source _ _ (by decide), by decide, by decide, by decide⟩

/-- The towers of TOY-BN, and a destination and sources for each at the last base that fits. -/
theorem witness_towers :
    Sound full ∧ full.cfg.hasFp2 = true ∧ full.cfg.hasFp3 = true ∧ full.cfg.f6 = .over2 ⟨2, 1⟩ ∧
    full.cfg.f6 ≠ .none ∧ full.cfg.hasFp12 = true ∧
    (Dest 126 2 ∧ Source full 126 2) ∧ (Dest 125 3 ∧ Source full 125 3) ∧
    (Dest 122 6 ∧ Source full 122 6) ∧ (Dest 116 12 ∧ Source full 116 12) := by
  unfold Dest
  exact ⟨full_sound, rfl, rfl, rfl, by decide, rfl, ⟨by decide, full_source _ _ (by decide)⟩,
    ⟨by decide, full_source _ _ (by decide)⟩, ⟨by decide, full_source _ _ (by decide)⟩,
    ⟨by decide, full_source _ _ (by decide)⟩⟩

theorem witness_LowerTowerArithmetic :
    Sound full ∧ full.cfg.hasFp2 = true ∧ full.cfg.hasFp3 = true ∧ Dest 126 2 ∧ Source full 126 2 ∧
    Source full 0 2 ∧ Dest 125 3 ∧ Source full 125 3 ∧ Source full 0 3 :=
  ⟨full_sound, rfl, rfl, by unfold Dest; decide, full_source _ _ (by decide), full_source _ _ (by decide),
    by unfold Dest; decide, full_source _ _ (by decide), full_source _ _ (by decide)⟩

theorem witness_Fp6Arithmetic :
    (Sound full ∧ full.cfg.f6 = .over2 ⟨2, 1⟩ ∧ Dest 122 6 ∧ Source full 122 6 ∧ Source full 0 6) ∧
    (Sound full3 ∧ full3.cfg.f6 = .over3 ⟨0, 1, 0⟩ ∧ Dest 122 6 ∧ Source full3 122 6 ∧ Source full3 0 6) :=
  ⟨⟨full_sound, rfl, by unfold Dest; decide, full_source _ _ (by decide), full_source _ _ (by decide)⟩,
    full3_sound, rfl, by unfold Dest; decide, full3_source _ _ (by decide), full3_source _ _ (by decide)⟩

theorem witness_Fp12Arithmetic :
    Sound full ∧ full.cfg.hasFp12 = true ∧ full.cfg.f6 = .over2 ⟨2, 1⟩ ∧ Dest 116 12 ∧ Source full 116 12 ∧
    Source full 0 12 :=
  ⟨full_sound, rfl, rfl, by unfold Dest; decide, full_source _ _ (by decide), full_source _ _ (by decide)⟩

theorem witness_LowerTowerInverses :
    (Sound zeros ∧ zeros.cfg.hasFp2 = true ∧ zeros.cfg.hasFp3 = true ∧ Source zeros 125 3 ∧
      ∀ i < 3, canon zeros ((125 : CellIdx).toNat + i) = 0) ∧
    (Sound full ∧ Source full 125 3 ∧ ∃ i < 2, canon full ((125 : CellIdx).toNat + i) ≠ 0) :=
  ⟨⟨zeros_sound, rfl, rfl, zeros_source _ _ (by decide), by decide +kernel⟩, full_sound,
    full_source _ _ (by decide), 0, by decide, by decide +kernel⟩

theorem witness_UpperTowerInverses :
    (Sound zeros ∧ zeros.cfg.f6 = .over2 ⟨2, 1⟩ ∧ zeros.cfg.hasFp12 = true ∧ Source zeros 116 12 ∧
      ∀ i < 12, canon zeros ((116 : CellIdx).toNat + i) = 0) ∧
    (Sound full ∧ Dest 116 12 ∧ Source full 116 12 ∧ ∃ i < 6, canon full ((116 : CellIdx).toNat + i) ≠ 0) ∧
    (Sound full3 ∧ full3.cfg.f6 = .over3 ⟨0, 1, 0⟩ ∧ Source full3 122 6 ∧
      ∃ i < 6, canon full3 ((122 : CellIdx).toNat + i) ≠ 0) :=
  ⟨⟨zeros_sound, rfl, rfl, zeros_source _ _ (by decide), by decide +kernel⟩,
    ⟨full_sound, by unfold Dest; decide, full_source _ _ (by decide), 0, by decide, by decide +kernel⟩,
    full3_sound, rfl, full3_source _ _ (by decide), 0, by decide, by decide +kernel⟩

theorem witness_LowerTowerFrobenius :
    Sound full ∧ full.cfg.hasFp2 = true ∧ full.cfg.hasFp3 = true ∧ Dest 125 3 ∧ Source full 125 3 ∧
    Dest 126 2 ∧ Source full 126 2 :=
  ⟨full_sound, rfl, rfl, by unfold Dest; decide, full_source _ _ (by decide), by unfold Dest; decide,
    full_source _ _ (by decide)⟩

theorem witness_UpperTowerFrobenius :
    (Sound full ∧ full.cfg.f6 = .over2 ⟨2, 1⟩ ∧ full.cfg.hasFp12 = true ∧ Dest 116 12 ∧ Source full 116 12) ∧
    (Sound full3 ∧ full3.cfg.f6 = .over3 ⟨0, 1, 0⟩ ∧ Dest 122 6 ∧ Source full3 122 6) :=
  ⟨⟨full_sound, rfl, rfl, by unfold Dest; decide, full_source _ _ (by decide)⟩, full3_sound, rfl,
    by unfold Dest; decide, full3_source _ _ (by decide)⟩

theorem witness_TowerTests :
    Sound full ∧ full.cfg.hasFp2 = true ∧ full.cfg.hasFp3 = true ∧ full.cfg.f6 ≠ .none ∧
    full.cfg.hasFp12 = true ∧ Source full 126 2 ∧ Source full 125 3 ∧ Source full 122 6 ∧ Source full 116 12 :=
  ⟨full_sound, rfl, rfl, by decide, rfl, full_source _ _ (by decide), full_source _ _ (by decide),
    full_source _ _ (by decide), full_source _ _ (by decide)⟩

/-- `full` with the element `c` in the cells 116 to 127, and 1 in every integer register. -/
def cycState : State := { setValues full 116 cyclo with k := Vector.replicate 8 1 }

theorem cycState_sound : Sound cycState := ⟨toyBN_wf, by unfold CellsBelowP; decide +kernel⟩

theorem cycState_source : Source cycState 116 12 := ⟨by decide, by decide +kernel⟩

theorem cycState_cyc : Spec.Cyc cycState.cfg ⟨2, 1⟩
    (Spec.ev12 cycState.cfg ⟨2, 1⟩ (canon cycState) (116 : CellIdx).toNat) := by
  have h : FldModel (fp12 cycState.cfg) _ _ _ :=
    fp12Model (c := cycState.cfg) (n := ⟨2, 1⟩) (by decide +kernel) rfl
  have hok : ok6 cycState.cfg (readElem (fp12 cycState.cfg) cycState (116 : CellIdx).toNat).c0 ∧
      ok6 cycState.cfg (readElem (fp12 cycState.cfg) cycState (116 : CellIdx).toNat).c1 := by
    unfold ok6 ok2
    decide +kernel
  rw [← ev12_readElem]
  refine ⟨?_, ?_⟩
  · rw [Ne, ← h.eq_zero_iff hok]
    decide +kernel
  · have e : (fp12 cycState.cfg).pow (readElem (fp12 cycState.cfg) cycState (116 : CellIdx).toNat)
        (Spec.phi12 cycState.cfg) = (fp12 cycState.cfg).one := by decide +kernel
    rw [← h.map_pow, e, h.map_one]

theorem witness_CyclotomicCommands :
    Sound cycState ∧ cycState.cfg.hasFp12 = true ∧ cycState.cfg.f6 = .over2 ⟨2, 1⟩ ∧ Dest 116 12 ∧
    Source cycState 116 12 ∧ kValid cycState 7 = true ∧ kReg cycState 7 < 2 ∧
    Spec.Cyc cycState.cfg ⟨2, 1⟩ (Spec.ev12 cycState.cfg ⟨2, 1⟩ (canon cycState) (116 : CellIdx).toNat) :=
  ⟨cycState_sound, rfl, rfl, by unfold Dest; decide, cycState_source, by decide +kernel, by decide +kernel,
    cycState_cyc⟩

/-- Two states that differ in `T` and agree on the operands. -/
theorem witness_CyclotomicDeterminism :
    full.cfg.WF ∧ full.cfg = ({ full with t := true } : State).cfg ∧ Dest 116 12 ∧ Source full 0 12 ∧
    Source { full with t := true } 0 12 ∧
    (∀ i < 12, canon full ((0 : CellIdx).toNat + i) = canon { full with t := true } ((0 : CellIdx).toNat + i)) ∧
    kReg full 7 = kReg { full with t := true } 7 ∧ kValid full 7 = true ∧
    kValid { full with t := true } 7 = true ∧
    (∃ t, exec (.f12csqr 116 0) full = .next t) ∧
    (∃ t, exec (.f12csqr 116 0) { full with t := true } = .next t) ∧
    Spec.present full.cfg (.f12csqr 116 0) = true :=
  ⟨toyBN_wf, rfl, by unfold Dest; decide, full_source _ _ (by decide), full_source _ _ (by decide),
    fun _ _ => rfl, rfl, by decide +kernel, by decide +kernel, next_of rfl, next_of rfl, rfl⟩

theorem witness_G1Formulas :
    Sound full ∧ Dest 125 (3 * 1) ∧ Source full 125 (3 * 1) ∧ Source full 0 (3 * 1) ∧ Source full 126 (2 * 1) :=
  ⟨full_sound, by unfold Dest; decide, full_source _ _ (by decide), full_source _ _ (by decide),
    full_source _ _ (by decide)⟩

theorem witness_G2Formulas :
    Sound full ∧ full.cfg.hasG2 = true ∧ Dest 122 (3 * 2) ∧ Source full 122 (3 * 2) ∧ Source full 0 (3 * 2) ∧
    Source full 124 (2 * 2) :=
  ⟨full_sound, rfl, by unfold Dest; decide, full_source _ _ (by decide), full_source _ _ (by decide),
    full_source _ _ (by decide)⟩

theorem witness_ToAffine :
    (Sound zeros ∧ zeros.cfg.hasG2 = true ∧ Dest 124 (2 * 2) ∧ Source zeros 122 (3 * 2) ∧
      ∀ i < 2, canon zeros ((122 : CellIdx).toNat + 2 * 2 + i) = 0) ∧
    (Sound full ∧ Source full 122 (3 * 2) ∧ ∃ i < 2, canon full ((122 : CellIdx).toNat + 2 * 2 + i) ≠ 0) ∧
    (Sound full ∧ Dest 126 (2 * 1) ∧ Source full 125 (3 * 1) ∧
      ∃ i < 1, canon full ((125 : CellIdx).toNat + 2 * 1 + i) ≠ 0) :=
  ⟨⟨zeros_sound, rfl, by unfold Dest; decide, zeros_source _ _ (by decide), by decide +kernel⟩,
    ⟨full_sound, full_source _ _ (by decide), 0, by decide, by decide +kernel⟩, full_sound,
    by unfold Dest; decide, full_source _ _ (by decide), 0, by decide, by decide +kernel⟩

theorem witness_PointTests :
    Sound full ∧ full.cfg.hasG2 = true ∧ Source full 125 (3 * 1) ∧ Source full 122 (3 * 2) :=
  ⟨full_sound, rfl, full_source _ _ (by decide), full_source _ _ (by decide)⟩

theorem witness_PointConstants : Sound full ∧ full.cfg.hasG2 = true ∧ Dest 125 3 ∧ Dest 122 6 :=
  ⟨full_sound, rfl, by unfold Dest; decide, by unfold Dest; decide⟩

theorem witness_ScalarMultiplication :
    Sound full ∧ kValid full 7 = true ∧ full.cfg.hasG2 = true ∧ Dest 125 3 ∧ Source full 125 3 ∧ Dest 122 6 ∧
    Source full 122 6 :=
  ⟨full_sound, by decide +kernel, rfl, by unfold Dest; decide, full_source _ _ (by decide),
    by unfold Dest; decide, full_source _ _ (by decide)⟩

/-- 11 lies between entries 2 and 3 of WTAB1; 5000 is above all of them. -/
theorem witness_WindowSelection :
    kValid full 7 = true ∧ full.cfg.hasG2 = true ∧
    (∃ w, 1 ≤ w ∧ w ≤ 22 ∧ kReg full 7 < (full.cfg.wtab1.toList.getD (w - 1) 0).toNat) ∧
    (∀ w, 1 ≤ w → w ≤ 22 →
      (full.cfg.wtab1.toList.getD (w - 1) 0).toNat ≤ kReg { full with k := Vector.replicate 8 5000 } 7) := by
  refine ⟨by decide +kernel, rfl, ⟨3, by decide +kernel⟩, fun w h1 h2 => ?_⟩
  interval_cases w <;> decide +kernel


/-! ### The groups and the pairing engine -/

/-- `G` in the cells 0 to 2 and the identity in 3 to 5, `Q` in 10 to 15 and the identity in 16 to 21. -/
def points : State := setValues full 0 [2, 42, 1, 0, 1, 0, 0, 0, 0, 0, 86, 29, 88, 47, 1, 0, 0, 0, 1, 0, 0, 0]

theorem points_sound : Sound points := ⟨toyBN_wf, by unfold CellsBelowP; decide +kernel⟩

theorem points_valid : ∀ j < 128, cellValid points j = true := by decide +kernel

theorem points_source (b : CellIdx) (n : Nat) (h : b.toNat + n ≤ 128) : Source points b n :=
  ⟨h, fun i hi => points_valid _ (by omega)⟩

theorem points_values : (List.range 22).map (canon points) =
    [2, 42, 1, 0, 1, 0, 0, 0, 0, 0, 86, 29, 88, 47, 1, 0, 0, 0, 1, 0, 0, 0] := by decide +kernel

theorem generator1_nonsingular {F : Type} [Field F] (h : (103 : F) = 0) {a b : F} (ha : a = 0) (hb : b = 5) :
    (Spec.curve a b).Nonsingular 2 42 := by
  subst ha hb
  rw [WeierstrassCurve.Affine.nonsingular_iff, WeierstrassCurve.Affine.equation_iff]
  simp only [Spec.curve]
  refine ⟨by linear_combination 17 * h, .inr fun e => one_ne_zero (α := F) ?_⟩
  linear_combination 65 * e - 53 * h

/-- `P = G`, `Q` the identity, `A = G`, over `F = Fp`. -/
theorem witness_G1GroupLaw :
    ∃ (F : Type) (_ : Field F) (_ : DecidableEq F) (φ : Spec.A1 points.cfg ≃+* F)
      (P Q A : (Spec.curve (points.cfg.curveA : F) (points.cfg.curveB : F)).Point),
      Sound points ∧ Dest 125 (3 * 1) ∧ Source points 0 (3 * 1) ∧ Source points 3 (3 * 1) ∧
      Source points 0 (2 * 1) ∧ kValid points 7 = true ∧
      Spec.Represents (Spec.evPt 1 (fun v b => φ (Spec.ev1 points.cfg v b)) (canon points) (0 : CellIdx).toNat) P ∧
      Spec.Represents (Spec.evPt 1 (fun v b => φ (Spec.ev1 points.cfg v b)) (canon points) (3 : CellIdx).toNat) Q ∧
      Spec.Represents ⟨φ (Spec.ev1 points.cfg (canon points) (0 : CellIdx).toNat),
        φ (Spec.ev1 points.cfg (canon points) ((0 : CellIdx).toNat + 1)), 1⟩ A ∧ P ≠ .zero := by
  have : Fact (Nat.Prime points.cfg.p) := ⟨toyBN_wf.1⟩
  have h : (103 : ZMod points.cfg.p) = 0 := by exact_mod_cast ZMod.natCast_self points.cfg.p
  have hG := generator1_nonsingular (F := ZMod points.cfg.p) (a := (points.cfg.curveA : ZMod points.cfg.p))
    (b := (points.cfg.curveB : ZMod points.cfg.p)) h Nat.cast_zero Nat.cast_ofNat
  have v := points_values
  simp only [List.range_succ, List.range_zero, List.map_nil, List.map_cons, List.nil_append,
    List.cons_append, List.cons.injEq, and_true] at v
  refine ⟨ZMod points.cfg.p, inferInstance, inferInstance, RingEquiv.refl _, .some 2 42 hG, .zero,
    .some 2 42 hG, points_sound, by unfold Dest; decide, points_source _ _ (by decide),
    points_source _ _ (by decide), points_source _ _ (by decide), by decide +kernel, ?_, ?_, ?_, nofun⟩ <;>
    simp [Spec.Represents, Spec.evPt, Spec.ev1, v]

theorem generator2_nonsingular {F : Type} [Field F] (h : (103 : F) = 0) {i : F} (hi : i ^ 2 = -1) {b : F}
    (hb : b = 5 * (21 + 41 * i)) : (Spec.curve 0 b).Nonsingular (86 + 29 * i) (88 + 47 * i) := by
  subst hb
  rw [WeierstrassCurve.Affine.nonsingular_iff, WeierstrassCurve.Affine.equation_iff]
  simp only [Spec.curve]
  refine ⟨?_, .inr fun e => one_ne_zero (α := F) ?_⟩
  · linear_combination (-214769 - 24389 * i) * hi + (-4016 - 5932 * i) * h
  · linear_combination 42 * (88 - 47 * i) * e + 42 * 2 * 47 ^ 2 * hi - 8117 * h

theorem toyBN_irreducible : Irreducible
    (Polynomial.X ^ 2 - Polynomial.C ((points.cfg.nr2 : ℕ) : ZMod points.cfg.p) : Polynomial (ZMod points.cfg.p)) := by
  have : Fact (Nat.Prime points.cfg.p) := ⟨toyBN_wf.1⟩
  exact X_pow_sub_C_irreducible_of_prime Nat.prime_two
    (by decide +kernel : ∀ b : ZMod 103, b ^ 2 ≠ ((102 : ℕ) : ZMod 103))

/-- `P = A = GEN2`, `Q` the identity, over `F = Fp2`. -/
theorem witness_G2GroupLaw :
    ∃ (F : Type) (_ : Field F) (_ : DecidableEq F) (φ : Spec.A2 points.cfg ≃+* F)
      (P Q A : (Spec.curve (0 : F)
        ((points.cfg.curveB : F) * (φ (Spec.elF2 points.cfg points.cfg.twist))⁻¹)).Point),
      Sound points ∧ points.cfg.hasG2 = true ∧ Dest 122 (3 * 2) ∧ Source points 10 (3 * 2) ∧
      Source points 16 (3 * 2) ∧ Source points 10 (2 * 2) ∧ kValid points 7 = true ∧
      Spec.Represents (Spec.evPt 2 (fun v b => φ (Spec.ev2 points.cfg v b)) (canon points) (10 : CellIdx).toNat) P ∧
      Spec.Represents (Spec.evPt 2 (fun v b => φ (Spec.ev2 points.cfg v b)) (canon points) (16 : CellIdx).toNat) Q ∧
      Spec.Represents ⟨φ (Spec.ev2 points.cfg (canon points) (10 : CellIdx).toNat),
        φ (Spec.ev2 points.cfg (canon points) ((10 : CellIdx).toNat + 2)), 1⟩ A ∧ P ≠ .zero := by
  classical
  have : Fact (Nat.Prime points.cfg.p) := ⟨toyBN_wf.1⟩
  have : Fact (Irreducible (Polynomial.X ^ 2 - Polynomial.C ((points.cfg.nr2 : ℕ) : ZMod points.cfg.p) :
    Polynomial (ZMod points.cfg.p))) := ⟨toyBN_irreducible⟩
  obtain ⟨F, iF, ⟨φ⟩⟩ : ∃ (F : Type) (_ : Field F), Nonempty (Spec.A2 points.cfg ≃+* F) :=
    ⟨Spec.A2 points.cfg, AdjoinRoot.instField, ⟨RingEquiv.refl _⟩⟩
  have hel (a b : ℕ) : φ (Spec.el2 points.cfg a b) = (a : F) + (b : F) * φ (AdjoinRoot.root _) := by
    simp only [Spec.el2, map_add, map_mul, map_natCast]
  have h : (103 : F) = 0 := by
    have e : ((103 : ℕ) : ZMod points.cfg.p) = 0 := ZMod.natCast_self points.cfg.p
    have e1 : ((103 : ℕ) : Spec.A2 points.cfg) = 0 := by
      rw [← map_natCast (AdjoinRoot.of _), e, map_zero]
    have e2 := map_natCast φ 103
    rw [e1, map_zero] at e2
    exact_mod_cast e2.symm
  have hi : φ (AdjoinRoot.root _) ^ 2 = -1 := by
    have e := congrArg φ (root_pow (n := 2) ((points.cfg.nr2 : ℕ) : ZMod points.cfg.p))
    rw [map_pow] at e
    have e2 : ((points.cfg.nr2 : ℕ) : F) = 102 := Nat.cast_ofNat
    refine e.trans ((congrArg φ (map_natCast (AdjoinRoot.of _) _)).trans ((map_natCast φ _).trans ?_))
    linear_combination e2 + h
  have hb : ((points.cfg.curveB : ℕ) : F) * (φ (Spec.elF2 points.cfg points.cfg.twist))⁻¹ =
      5 * (21 + 41 * φ (AdjoinRoot.root _)) := by
    have e : φ (Spec.elF2 points.cfg points.cfg.twist) = 2 + φ (AdjoinRoot.root _) := by
      have h0 : points.cfg.twist = ⟨2, 1⟩ := rfl
      rw [Spec.elF2, hel, h0]
      simp
    have hB : ((points.cfg.curveB : ℕ) : F) = 5 := Nat.cast_ofNat
    rw [e, inv_eq_of_mul_eq_one_right (b := 21 + 41 * φ (AdjoinRoot.root _)), hB]
    · linear_combination 41 * hi + φ (AdjoinRoot.root _) * h
  have hG := generator2_nonsingular h hi hb
  have v := points_values
  simp only [List.range_succ, List.range_zero, List.map_nil, List.map_cons, List.nil_append,
    List.cons_append, List.cons.injEq, and_true] at v
  refine ⟨F, iF, inferInstance, φ, .some _ _ hG, .zero, .some _ _ hG, points_sound, rfl,
    by unfold Dest; decide, points_source _ _ (by decide), points_source _ _ (by decide),
    points_source _ _ (by decide), by decide +kernel, ?_, ?_, ?_, nofun⟩ <;>
    simp [Spec.Represents, Spec.evPt, Spec.ev2, hel, v]

theorem z2_ne_zero {s : State} (hp : 1 < s.cfg.p) (b : Nat)
    (h0 : canon s b < s.cfg.p ∧ canon s (b + 1) < s.cfg.p) (h1 : canon s b ≠ 0) :
    Spec.ev2 s.cfg (canon s) b ≠ 0 := by
  rw [← ev2_readElem]
  have h := (fp2Model hp).eq_zero_iff (a := readElem (fp2 s.cfg) s b) h0
  intro e
  exact h1 (congrArg Quad.c0 (h.2 e))

/-- TOY-BLS12, whose loop count is negative, with every cell 0 but the `Z` of the points in the cells 0 to 2
and 10 to 15, which is 1. -/
def lowOrder : State :=
  { State.resetOf toyBLS12 with
      f := (((Vector.replicate 128 0).set 2 1).set 14 1), fv := Vector.replicate 128 true }

theorem lowOrder_sound : Sound lowOrder := ⟨toyBLS12_wf, by unfold CellsBelowP; decide +kernel⟩

theorem lowOrder_valid : ∀ j < 128, cellValid lowOrder j = true := by decide +kernel

theorem lowOrder_source (b : CellIdx) (n : Nat) (h : b.toNat + n ≤ 128) : Source lowOrder b n :=
  ⟨h, fun i hi => lowOrder_valid _ (by omega)⟩

theorem lowOrder_values : (List.range 6).map (fun i => canon lowOrder (10 + i)) = [0, 0, 0, 0, 1, 0] := by
  decide +kernel

/-- `Q = ((0, 0), (0, 0), (1, 0))` is off the curve; doubling it gives `Z = 0`. -/
theorem lowOrder_vanishes :
    (Spec.evPt 2 (Spec.ev2 lowOrder.cfg) (canon lowOrder) (10 : CellIdx).toNat).z ≠ 0 ∧
    ∀ half B, Spec.LoopVanishes lowOrder.cfg half B
      (Spec.evPt 2 (Spec.ev2 lowOrder.cfg) (canon lowOrder) (10 : CellIdx).toNat) := by
  have hp : 1 < lowOrder.cfg.p := by decide +kernel
  have := nontrivial_A2 hp
  have v := lowOrder_values
  simp only [List.range_succ, List.range_zero, List.map_nil, List.map_cons, List.nil_append,
    List.cons_append, List.cons.injEq, and_true] at v
  have hz : Spec.evPt 2 (Spec.ev2 lowOrder.cfg) (canon lowOrder) (10 : CellIdx).toNat = ⟨0, 0, 1⟩ := by
    simp [Spec.evPt, Spec.ev2, Spec.el2, v]
  rw [hz]
  refine ⟨one_ne_zero, fun half B => ⟨rfl, fun q hx hy => ?_⟩⟩
  have hl : Spec.digitsFrom 2 lowOrder.cfg.loopcount = [1, 0] := by
    have e : lowOrder.cfg.loopcount = 2 := rfl
    simp [Spec.digitsFrom, e]
  have hq : q.y = 0 := by simpa using hy
  simp [Spec.mainLoop, Spec.dblStep, hl, hq]

theorem not_vanishes (half B : Spec.A2 full.cfg) (Q : Pt (Spec.A2 full.cfg)) :
    ¬Spec.LoopVanishes full.cfg half B Q := fun h => Bool.noConfusion h.1

theorem witness_Precomputation :
    (Sound zeros ∧ zeros.cfg.hasPair = true ∧ Source zeros 122 6 ∧
      (Spec.evPt 2 (Spec.ev2 zeros.cfg) (canon zeros) (122 : CellIdx).toNat).z = 0) ∧
    (Sound lowOrder ∧ lowOrder.cfg.hasPair = true ∧ Source lowOrder 10 6 ∧
      (Spec.evPt 2 (Spec.ev2 lowOrder.cfg) (canon lowOrder) (10 : CellIdx).toNat).z ≠ 0 ∧
      ∀ half B, Spec.LoopVanishes lowOrder.cfg half B
        (Spec.evPt 2 (Spec.ev2 lowOrder.cfg) (canon lowOrder) (10 : CellIdx).toNat)) ∧
    (Sound full ∧ full.cfg.hasPair = true ∧ Source full 122 6 ∧
      (Spec.evPt 2 (Spec.ev2 full.cfg) (canon full) (122 : CellIdx).toNat).z ≠ 0 ∧
      ∀ half B, ¬Spec.LoopVanishes full.cfg half B
        (Spec.evPt 2 (Spec.ev2 full.cfg) (canon full) (122 : CellIdx).toNat)) := by
  refine ⟨⟨zeros_sound, rfl, zeros_source _ _ (by decide), ?_⟩,
    ⟨lowOrder_sound, rfl, lowOrder_source _ _ (by decide), lowOrder_vanishes⟩,
    full_sound, rfl, full_source _ _ (by decide),
    z2_ne_zero (by decide +kernel) _ (by decide +kernel) (by decide +kernel), fun _ _ => not_vanishes _ _ _⟩
  have v : canon zeros 126 = 0 ∧ canon zeros 127 = 0 := by decide +kernel
  simp [Spec.evPt, Spec.ev2, Spec.el2, v]

theorem witness_MillerLoop :
    Sound full ∧ BanksFull full ∧ full.cfg.hasPair = true ∧ full.cfg.f6 = .over2 ⟨2, 1⟩ ∧ Dest 116 12 ∧
    Source full 126 2 ∧ Source full 0 2 ∧ bankValid full 0 = true ∧ bankValid full 1 = true :=
  ⟨full_sound, full_inv.2.1, rfl, rfl, by unfold Dest; decide, full_source _ _ (by decide),
    full_source _ _ (by decide), by decide +kernel, by decide +kernel⟩

theorem z1_ne_zero : (Spec.evPt 1 (Spec.ev1 full.cfg) (canon full) (100 : CellIdx).toNat).z ≠ 0 := by
  have e : canon full 102 = 35 := by decide +kernel
  have h : ((35 : ℕ) : ZMod 103) ≠ 0 := by decide +kernel
  rw [← e] at h
  exact h

theorem witness_PairCommand :
    (Sound zeros ∧ zeros.cfg.hasPair = true ∧ zeros.cfg.f6 = .over2 ⟨2, 1⟩ ∧ Dest 116 12 ∧ Source zeros 0 3 ∧
      Source zeros 122 6 ∧ (Spec.evPt 1 (Spec.ev1 zeros.cfg) (canon zeros) (0 : CellIdx).toNat).z = 0) ∧
    (Sound lowOrder ∧ lowOrder.cfg.hasPair = true ∧ lowOrder.cfg.f6 = .over2 ⟨0, 3⟩ ∧ Source lowOrder 0 3 ∧
      Source lowOrder 10 6 ∧ (Spec.evPt 1 (Spec.ev1 lowOrder.cfg) (canon lowOrder) (0 : CellIdx).toNat).z ≠ 0 ∧
      (Spec.evPt 2 (Spec.ev2 lowOrder.cfg) (canon lowOrder) (10 : CellIdx).toNat).z ≠ 0 ∧
      ∀ half B, Spec.LoopVanishes lowOrder.cfg half B
        (Spec.evPt 2 (Spec.ev2 lowOrder.cfg) (canon lowOrder) (10 : CellIdx).toNat)) ∧
    (Sound full ∧ full.cfg.hasPair = true ∧ full.cfg.f6 = .over2 ⟨2, 1⟩ ∧ Dest 116 12 ∧ Source full 100 3 ∧
      Source full 122 6 ∧ (Spec.evPt 1 (Spec.ev1 full.cfg) (canon full) (100 : CellIdx).toNat).z ≠ 0 ∧
      (Spec.evPt 2 (Spec.ev2 full.cfg) (canon full) (122 : CellIdx).toNat).z ≠ 0 ∧
      ∀ half B, ¬Spec.LoopVanishes full.cfg half B
        (Spec.evPt 2 (Spec.ev2 full.cfg) (canon full) (122 : CellIdx).toNat)) := by
  refine ⟨⟨zeros_sound, rfl, rfl, by unfold Dest; decide, zeros_source _ _ (by decide),
      zeros_source _ _ (by decide), ?_⟩,
    ⟨lowOrder_sound, rfl, rfl, lowOrder_source _ _ (by decide), lowOrder_source _ _ (by decide), ?_,
      lowOrder_vanishes⟩,
    full_sound, rfl, rfl, by unfold Dest; decide, full_source _ _ (by decide), full_source _ _ (by decide),
    z1_ne_zero, z2_ne_zero (by decide +kernel) _ (by decide +kernel) (by decide +kernel),
    fun _ _ => not_vanishes _ _ _⟩
  · have v : canon zeros 2 = 0 := by decide +kernel
    simp [Spec.evPt, Spec.ev1, v]
  · have e : canon lowOrder 2 = 1 := by decide +kernel
    have h : ((1 : ℕ) : ZMod 37) ≠ 0 := by decide +kernel
    rw [← e] at h
    exact h

/-- `P = (0, 0)` in the cells 0 to 2 and `Q = ((0, 0), (0, 0))` in 10 to 15, both with `Z = 1`, on TOY-BN with
the loop count `l`. -/
def origin (l : Nat) : State :=
  { setValues zeros 0 [0, 0, 1, 0, 0, 0, 0, 0, 0, 0, 0, 0, 0, 0, 1, 0] with cfg := { toyBN with loopcount := l } }

theorem origin_sound {l : Nat} (h : ({ toyBN with loopcount := l } : Config).wfCheck = true) :
    Sound (origin l) := ⟨(Config.wf_iff _).2 h, fun i hi _ =>
      (by decide +kernel : ∀ i < 128, rawCell (origin 1) i < 103) i hi⟩

theorem origin_source (l : Nat) (b : CellIdx) (n : Nat) (h : b.toNat + n ≤ 128) : Source (origin l) b n :=
  ⟨h, fun i hi => (by decide +kernel : ∀ j < 128, cellValid (origin 1) j = true) _ (by omega)⟩

/-- `Fp2` of TOY-BN, with any loop count: `103 = 0`, `TWO_INV = 52`, `CURVE_B = 5`, `TWIST_B = 2 + 102u`, and a
multiple of the square of that. -/
theorem origin_constants (l : Nat) :
    (103 : Spec.A2 (origin l).cfg) = 0 ∧
    2 * (52 : Spec.A2 (origin l).cfg) = 1 ∧ (((origin l).cfg.curveB : ℕ) : Spec.A2 (origin l).cfg) = 5 ∧
    Spec.elF2 (origin l).cfg (origin l).cfg.twist * Spec.elF2 (origin l).cfg ⟨2, 102⟩ = 5 ∧
    Spec.elF2 (origin l).cfg ⟨46, 76⟩ = 84 * Spec.elF2 (origin l).cfg ⟨2, 102⟩ ^ 2 := by
  have h : (103 : Spec.A2 (origin l).cfg) = 0 := by
    have e : ((103 : ℕ) : ZMod (origin l).cfg.p) = 0 := ZMod.natCast_self 103
    have e1 := map_natCast (AdjoinRoot.of (Polynomial.X ^ 2 -
      Polynomial.C (((origin l).cfg.nr2 : ℕ) : ZMod (origin l).cfg.p))) 103
    rw [e, map_zero] at e1
    exact_mod_cast e1.symm
  have hu := root_pow (n := 2) (((origin l).cfg.nr2 : ℕ) : ZMod (origin l).cfg.p)
  have e2 : AdjoinRoot.of (Polynomial.X ^ 2 - Polynomial.C (((origin l).cfg.nr2 : ℕ) : ZMod (origin l).cfg.p))
      (((origin l).cfg.nr2 : ℕ) : ZMod (origin l).cfg.p) = 102 := (map_natCast _ 102).trans Nat.cast_ofNat
  rw [e2] at hu
  have ht : (origin l).cfg.twist = ⟨2, 1⟩ := rfl
  refine ⟨h, by linear_combination h, Nat.cast_ofNat, ?_, ?_⟩ <;>
    simp only [Spec.elF2, Spec.el2, ht, Nat.cast_ofNat, Nat.cast_one]
  · linear_combination 102 * hu + (2 * AdjoinRoot.root _ + 101) * h
  · linear_combination -873936 * hu + (-865454 - 332 * AdjoinRoot.root _) * h

theorem elF2_zero (c : Config) : Spec.elF2 c ⟨0, 0⟩ = 0 := by simp [Spec.elF2, Spec.el2]

theorem elF2_nat (c : Config) (n : Nat) : Spec.elF2 c ⟨n, 0⟩ = n := by simp [Spec.elF2, Spec.el2]

theorem el6_zero (c : Config) (n : F2) : Spec.el6 c n 0 0 0 = 0 := by simp [Spec.el6]

theorem el12_zero (c : Config) (n : F2) : Spec.el12 c n 0 0 = 0 := by simp [Spec.el12]

/-- The operands of PAIRR, and what its statement says of the two points: neither is the identity, and with a
positive loop count the running point does not matter. -/
theorem origin_operands (l : Nat) :
    (origin l).cfg.hasPair = true ∧ (origin l).cfg.f6 = .over2 ⟨2, 1⟩ ∧ Dest 116 12 ∧
    Source (origin l) 0 3 ∧ Source (origin l) 10 6 ∧
    Spec.evPt 1 (Spec.ev1 (origin l).cfg) (canon (origin l)) (0 : CellIdx).toNat = ⟨0, 0, 1⟩ ∧
    Spec.evPt 2 (Spec.ev2 (origin l).cfg) (canon (origin l)) (10 : CellIdx).toNat = ⟨0, 0, 1⟩ ∧
    ∀ half B Q, ¬Spec.LoopVanishes (origin l).cfg half B Q := by
  have v : (List.range 16).map (canon (origin l)) = [0, 0, 1, 0, 0, 0, 0, 0, 0, 0, 0, 0, 0, 0, 1, 0] :=
    (by decide +kernel : (List.range 16).map (canon (origin 1)) = _)
  simp only [List.range_succ, List.range_zero, List.map_nil, List.map_cons, List.nil_append,
    List.cons_append, List.cons.injEq, and_true] at v
  refine ⟨rfl, rfl, by unfold Dest; decide, origin_source _ _ _ (by decide), origin_source _ _ _ (by decide),
    ?_, ?_, fun _ _ _ h => Bool.noConfusion h.1⟩
  · simp [Spec.evPt, Spec.ev1, v]
  · simp [Spec.evPt, Spec.ev2, Spec.el2, v]

/-- The Miller value of the origin is defined and `z` says of it, in the terms of the statement of PAIRR. -/
def MillerCase (l : Nat) (z : Spec.A12 (origin l).cfg ⟨2, 1⟩ → Prop) : Prop :=
  Sound (origin l) ∧ ∃ half B bk, Spec.PairingConstants (origin l).cfg half B ∧
    Spec.BankOf (origin l).cfg half B ⟨0, 0, 1⟩ bk ∧ Spec.AffineOf (origin l).cfg ⟨0, 0, 1⟩ 0 0 ∧
    z (Spec.millerValue (origin l).cfg ⟨2, 1⟩ bk 0 0)

theorem digits_two : Spec.digitsFrom 2 2 = [1, 0] := by simp [Spec.digitsFrom]

theorem digits_six : Spec.digitsFrom 2 6 = [1, 1, 0] := by simp [Spec.digitsFrom]

/-- The records of the origin, in any ring with the constants of TOY-BN. -/
theorem origin_loop {A : Type} [CommRing A] {tw B : A} (h : (103 : A) = 0) (hB : tw * B = 5) :
    (Spec.mainLoop 52 tw B ⟨0, 0⟩ 2).2 = [⟨15, 0, 0⟩] ∧
    (Spec.mainLoop 52 tw B ⟨0, 0⟩ 6).2 = [⟨15, 0, 0⟩, ⟨0, 84 * B ^ 2, 0⟩, ⟨0, 0, 0⟩] := by
  have e : tw * (3 * B) = 15 := by linear_combination 3 * hB
  have e2 : 3 * (3 * B) ^ 2 - (52 * (3 * (3 * B))) ^ 2 = 84 * B ^ 2 := by linear_combination -2127 * B ^ 2 * h
  constructor <;> simp [Spec.mainLoop, Spec.dblStep, Spec.addStep, digits_two, digits_six, e, e2]

/-- With the loop count 2 the value is the one line of the doubling, 15. -/
theorem origin_two : MillerCase 2 (· ≠ 0) := by
  obtain ⟨p, hh, hb, hB, -⟩ := origin_constants 2
  refine ⟨origin_sound (by decide +kernel), 52, _, ⟨⟨0, 0⟩, ⟨0, 0⟩, [⟨⟨15, 0⟩, ⟨0, 0⟩, ⟨0, 0⟩⟩]⟩,
    ⟨hh, hB.trans hb.symm⟩, ⟨by simp [elF2_zero], by simp [elF2_zero], fun _ => ?_, nofun, by decide +kernel⟩,
    by simp [Spec.AffineOf], ?_⟩
  · rw [elF2_zero]
    refine Eq.trans ?_ (origin_loop p hB).1.symm
    simp [Spec.elLine, elF2_nat]
  · have h := (fp12Model (c := (origin 2).cfg) (n := ⟨2, 1⟩) (by decide +kernel) rfl).eq_zero_iff
      (a := ⟨⟨⟨15, 0⟩, ⟨0, 0⟩, ⟨0, 0⟩⟩, ⟨⟨0, 0⟩, ⟨0, 0⟩, ⟨0, 0⟩⟩⟩) (by unfold ok6 ok2; decide +kernel)
    have h' := h.not.1 (by decide +kernel)
    simpa [Spec.millerValue, Spec.miller, show (origin 2).cfg.loopcount = 2 from rfl,
      show (origin 2).cfg.loopneg = false from rfl, digits_two, Spec.gline, Spec.elLine, Spec.elF2, Spec.el2,
      el6Of] using h'

/-- With the loop count of TOY-BN, 6, the line of the addition is 0, and so is the value. -/
theorem origin_six : MillerCase 6 (· = 0) := by
  obtain ⟨p, hh, hb, hB, hq⟩ := origin_constants 6
  refine ⟨origin_sound (by decide +kernel), 52, _,
    ⟨⟨0, 0⟩, ⟨0, 0⟩, [⟨⟨15, 0⟩, ⟨0, 0⟩, ⟨0, 0⟩⟩, ⟨⟨0, 0⟩, ⟨46, 76⟩, ⟨0, 0⟩⟩, ⟨⟨0, 0⟩, ⟨0, 0⟩, ⟨0, 0⟩⟩]⟩,
    ⟨hh, hB.trans hb.symm⟩, ⟨by simp [elF2_zero], by simp [elF2_zero], fun _ => ?_, nofun, by decide +kernel⟩,
    by simp [Spec.AffineOf], ?_⟩
  · rw [elF2_zero]
    refine Eq.trans ?_ (origin_loop p hB).2.symm
    simp [Spec.elLine, elF2_nat, hq]
  · simp [Spec.millerValue, Spec.miller, show (origin 6).cfg.loopcount = 6 from rfl,
      show (origin 6).cfg.loopneg = false from rfl, digits_six, Spec.gline, Spec.elLine, elF2_nat, el6_zero,
      el12_zero]

/-- The three first cases are those of PAIR; the two others are about the Miller value. The operands of both are
those of origin_operands. -/
theorem witness_ReducedPairCommand : MillerCase 2 (· ≠ 0) ∧ MillerCase 6 (· = 0) := ⟨origin_two, origin_six⟩

theorem witness_FinalExponentiation :
    (Sound zeros ∧ zeros.cfg.hasPair = true ∧ zeros.cfg.f6 = .over2 ⟨2, 1⟩ ∧ Dest 116 12 ∧ Source zeros 116 12 ∧
      ∀ i < 12, canon zeros ((116 : CellIdx).toNat + i) = 0) ∧
    (Sound cycState ∧ cycState.cfg.hasPair = true ∧ cycState.cfg.f6 = .over2 ⟨2, 1⟩ ∧ Dest 116 12 ∧
      Source cycState 116 12 ∧ (∃ i < 12, canon cycState ((116 : CellIdx).toNat + i) ≠ 0) ∧
      Spec.Cyc cycState.cfg ⟨2, 1⟩ (Spec.ev12 cycState.cfg ⟨2, 1⟩ (canon cycState) (116 : CellIdx).toNat) ∧
      Spec.IsChainExponent cycState.cfg 23204180 ∧
      ((1 : ℕ) : Int) ≡ Spec.zParam cycState.cfg [ZMOD (Spec.phi12 cycState.cfg : Int)]) := by
  refine ⟨⟨zeros_sound, rfl, rfl, by unfold Dest; decide, zeros_source _ _ (by decide), by decide +kernel⟩,
    cycState_sound, rfl, rfl, by unfold Dest; decide, cycState_source, ⟨0, by decide, by decide +kernel⟩,
    cycState_cyc, ?_, by decide +kernel⟩
  unfold Spec.IsChainExponent
  decide +kernel

end Sys2Proof.Tests
end

/-! PROOFS. Scope (00_scope.md): what every instruction and every step can do, and the representation maps. -/

namespace Sys2Proof.Machine

/-! ## The writes of a command touch no control field (R16)

A rule that answers `u` completes with `complete u`; `Completed s (complete u)` says that `u` leaves alone
what every command leaves alone. -/

theorem completed_setCells (s : State) (b : Nat) (vs : List Nat) : Completed s (complete (setCells s b vs)) := by
  apply completed_complete <;> simp

theorem completed_setCell (s : State) (i v : Nat) : Completed s (complete (setCell s i v)) :=
  completed_setCells s i [v]

theorem completed_setValues (s : State) (b : Nat) (vs : List Nat) :
    Completed s (complete (setValues s b vs)) := completed_setCells _ _ _

theorem completed_setT (s : State) (b : Bool) : Completed s (complete (setT s b)) := (onlyT_setT s b).1

theorem completed_setK (s : State) (r : KIdx) (v : Nat) : Completed s (complete (setK s r v)) :=
  (onlyK_setK s r v).1

theorem completed_precomp (s : State) (b : BankIdx) (B : Bank) :
    Completed s (complete (setMl (setBank s b B) .notStarted)) := (onlyBank_setBank s b B).1

theorem completed_writeMiller (s : State) (rd : CellIdx) (f : F12) :
    Completed s (complete (writeMiller s rd f)) := by
  apply completed_complete <;> simp [writeMiller, writeElem]

/-- The writes of PAIR and PAIRR: the bank first, then the cells and the phase. -/
theorem completed_writeMiller_setBank (s : State) (rd : CellIdx) (b : BankIdx) (B : Bank) (f : F12) :
    Completed s (complete (writeMiller (setBank s b B) rd f)) := by
  apply completed_complete <;> simp [writeMiller, writeElem]

/-- A store that is inside XMEM changes XMEM alone (R62). -/
theorem completed_xmemStore {s u : State} {addr n v : Nat} (h : xmemStore s addr n v = .ok u) :
    Completed s (complete u) := by
  obtain ⟨-, he⟩ | ⟨-, hok⟩ := xmemStore_cases s addr n v
  · rw [he] at h; cases h
  · rw [hok] at h; cases h; exact (onlyMem_memWriteList s addr _).1

/-! ## What an outcome of a command can be (R68, R385) -/

/-- The outcome is a next state: the fault entry, or a completion that leaves the control fields alone. -/
def FaultsOrCompletes (s : State) (o : Out) : Prop :=
  ∃ t, o = .next t ∧ ((∃ c, t = takeFault c s) ∨ Completed s t)

theorem FaultsOrCompletes.next_cfg {s : State} {o : Out} (h : FaultsOrCompletes s o) :
    ∃ t, o = .next t ∧ t.cfg = s.cfg := by
  obtain ⟨t, ho, ⟨c, rfl⟩ | ⟨-, -, hcfg, -⟩⟩ := h
  · exact ⟨_, ho, rfl⟩
  · exact ⟨t, ho, hcfg⟩

theorem takeFault_faultsOrCompletes (c : FaultCode) (s : State) :
    FaultsOrCompletes s (.next (takeFault c s)) := ⟨_, rfl, .inl ⟨c, rfl⟩⟩

/-- A command whose rule touches no control field. -/
theorem command_faultsOrCompletes {n : Needs} {act : State → Result} {s : State}
    (h : ∀ u, act s = .ok u → Completed s (complete u)) : FaultsOrCompletes s (command n act s) := by
  obtain ⟨c, -, ho⟩ | ⟨-, c, -, ho⟩ | ⟨-, u, hu, ho⟩ := command_cases n act s
  · exact ⟨_, ho, .inl ⟨c, rfl⟩⟩
  · exact ⟨_, ho, .inl ⟨c, rfl⟩⟩
  · exact ⟨_, ho, .inr (h u hu)⟩

/-- A command whose rule never faults. -/
theorem command_ok_faultsOrCompletes {n : Needs} {act : State → State} {s : State}
    (h : Completed s (complete (act s))) : FaultsOrCompletes s (command n (fun s => .ok (act s)) s) :=
  command_faultsOrCompletes fun _ hu => Except.ok.inj hu ▸ h

/-- A command whose rule writes a value that another function answers or refuses. -/
theorem command_map_faultsOrCompletes {α : Type} {n : Needs} {rule : State → Except FaultCode α}
    {write : State → α → State} {s : State} (h : ∀ a, Completed s (complete (write s a))) :
    FaultsOrCompletes s (command n (fun s => (rule s).map (write s)) s) := by
  refine command_faultsOrCompletes fun u hu => ?_
  cases hv : rule s with
  | error c => simp [hv, Except.map] at hu
  | ok a => simp only [hv, Except.map, Except.ok.injEq] at hu; exact hu ▸ h a

/-! ### The shapes of command -/

section
variable {α : Type} (s : State)

theorem rawOp2_faultsOrCompletes (op : Config → Nat → Nat → Nat) (rd rs1 rs2 : CellIdx) :
    FaultsOrCompletes s (rawOp2 op rd rs1 rs2 s) :=
  command_ok_faultsOrCompletes (completed_setCell _ _ _)

theorem rawOp1_faultsOrCompletes (op : Config → Nat → Nat) (rd rs1 : CellIdx) :
    FaultsOrCompletes s (rawOp1 op rd rs1 s) :=
  command_ok_faultsOrCompletes (completed_setCell _ _ _)

theorem elemOp2_faultsOrCompletes (feature : Bool) (K : Fld α) (op : α → α → α) (rd rs1 rs2 : CellIdx) :
    FaultsOrCompletes s (elemOp2 feature K op rd rs1 rs2 s) :=
  command_ok_faultsOrCompletes (completed_setValues _ _ _)

/-- The value rule may fault. -/
theorem elemOp1?_faultsOrCompletes (feature : Bool) (K : Fld α) (op : α → Except FaultCode α)
    (rd rs1 : CellIdx) : FaultsOrCompletes s (elemOp1? feature K op rd rs1 s) :=
  command_map_faultsOrCompletes fun _ => completed_setValues _ _ _

theorem elemOp1_faultsOrCompletes (feature : Bool) (K : Fld α) (op : α → α) (rd rs1 : CellIdx) :
    FaultsOrCompletes s (elemOp1 feature K op rd rs1 s) := elemOp1?_faultsOrCompletes s _ _ _ _ _

theorem elemOpK_faultsOrCompletes (feature : Bool) (K : Fld α) (op : α → Nat → α) (rd rs1 : CellIdx)
    (k : KIdx) : FaultsOrCompletes s (elemOpK feature K op rd rs1 k s) :=
  command_ok_faultsOrCompletes (completed_setValues _ _ _)

theorem testOp1_faultsOrCompletes (feature : Bool) (span : Nat × Nat) (test : State → Bool) :
    FaultsOrCompletes s (testOp1 feature span test s) :=
  command_ok_faultsOrCompletes (completed_setT _ _)

theorem testOp2_faultsOrCompletes (feature : Bool) (span1 span2 : Nat × Nat) (test : State → Bool) :
    FaultsOrCompletes s (testOp2 feature span1 span2 test s) :=
  command_ok_faultsOrCompletes (completed_setT _ _)

/-- In either kind of Fp6, and without one. -/
theorem onFp6_faultsOrCompletes {run : {α : Type} → [DecidableEq α] → Fld α → Out}
    (h : ∀ {α : Type} [DecidableEq α] (K : Fld α), FaultsOrCompletes s (run K)) :
    FaultsOrCompletes s (onFp6 s run) := by
  unfold onFp6
  split
  · exact takeFault_faultsOrCompletes _ _
  · exact h _
  · exact h _

theorem winOp_faultsOrCompletes (feature : Bool) (tab : Vector (BitVec 32) 22) (kd ks : KIdx) :
    FaultsOrCompletes s (winOp feature tab kd ks s) :=
  command_ok_faultsOrCompletes (completed_setK _ _ _)

variable (E : Curve α)

theorem ptOp1_faultsOrCompletes (op : Pt α → Pt α) (rd rs1 : CellIdx) :
    FaultsOrCompletes s (ptOp1 E op rd rs1 s) :=
  command_ok_faultsOrCompletes (completed_setValues _ _ _)

theorem ptOp2_faultsOrCompletes (op : Pt α → Pt α → Pt α) (rd rs1 rs2 : CellIdx) :
    FaultsOrCompletes s (ptOp2 E op rd rs1 rs2 s) :=
  command_ok_faultsOrCompletes (completed_setValues _ _ _)

theorem ptOpMixed_faultsOrCompletes (op : Pt α → Aff α → Pt α) (rd rs1 rs2 : CellIdx) :
    FaultsOrCompletes s (ptOpMixed E op rd rs1 rs2 s) :=
  command_ok_faultsOrCompletes (completed_setValues _ _ _)

theorem ptOpAffine_faultsOrCompletes [DecidableEq α] (rd rs1 : CellIdx) :
    FaultsOrCompletes s (ptOpAffine E rd rs1 s) := by
  refine command_faultsOrCompletes fun u hu => ?_
  dsimp only at hu
  split at hu
  · cases hu
  · cases hu; exact completed_setValues _ _ _

theorem ptConst_faultsOrCompletes (P : Pt α) (rd : CellIdx) : FaultsOrCompletes s (ptConst E P rd s) :=
  command_ok_faultsOrCompletes (completed_setValues _ _ _)

theorem ptOpK_faultsOrCompletes (op : Pt α → Nat → Pt α) (rd rs1 : CellIdx) (k : KIdx) :
    FaultsOrCompletes s (ptOpK E op rd rs1 k s) :=
  command_ok_faultsOrCompletes (completed_setValues _ _ _)

end

/-- PRECOMP: IDENTITY, or a fault of the precomputation, or the bank and the phase (R325). -/
theorem execPrecomp_faultsOrCompletes (b : BankIdx) (rs1 : CellIdx) (s : State) :
    FaultsOrCompletes s (execPrecomp b rs1 s) := by
  refine command_faultsOrCompletes fun u hu => ?_
  dsimp only at hu
  split at hu
  · cases hu
  · cases hB : precompute s.cfg (readPt (fp2 s.cfg) s rs1.toNat) with
    | error c => simp [hB, Except.map] at hu
    | ok B => simp only [hB, Except.map, Except.ok.injEq] at hu; exact hu ▸ completed_precomp _ _ _

/-- PAIR and PAIRR, whatever the Miller value is passed through (R328, R329). -/
theorem pairOp_faultsOrCompletes (post : Config → F12 → Except FaultCode F12) (rd rs1 rs2 : CellIdx)
    (s : State) : FaultsOrCompletes s (pairOp post rd rs1 rs2 s) := by
  refine command_faultsOrCompletes fun u hu => ?_
  dsimp only at hu
  split at hu
  · cases hu
  · split at hu
    · cases hu
    · next B _ =>
      cases hf : post s.cfg (miller s.cfg
          [(ptToAffine (fp s.cfg) (readPt (fp s.cfg) s rs1.toNat), B.recs)]) with
      | error c => simp [hf, Except.map] at hu
      | ok f =>
        simp only [hf, Except.map, Except.ok.injEq] at hu
        exact hu ▸ completed_writeMiller_setBank _ _ _ _ _

/-! ### Every instruction -/

/-- Every instruction faults or completes, by the shape of its meaning (R68, R385). -/
theorem exec_faultsOrCompletes (i : Instr) (s : State) : FaultsOrCompletes s (exec i s) := by
  unfold exec
  cases i with
  | nop => exact command_ok_faultsOrCompletes (onlyCompletes_complete s).1
  | ldfe | ldraw => exact command_map_faultsOrCompletes fun _ => completed_setCell _ _ _
  | stfe | straw | stk => exact command_faultsOrCompletes fun _ => completed_xmemStore
  | ldk => exact command_map_faultsOrCompletes fun _ => completed_setK _ _ _
  | ldki => exact command_ok_faultsOrCompletes (completed_setK _ _ _)
  | mov | zero => exact command_ok_faultsOrCompletes (completed_setCells _ _ _)
  | one => exact command_ok_faultsOrCompletes (completed_setCell _ _ _)
  | mmul | bmul => exact rawOp2_faultsOrCompletes _ _ _ _ _
  | tomont | frommont | ffrob => exact rawOp1_faultsOrCompletes _ _ _ _
  | fadd | fsub | fmul | f2add | f2sub | f2mul | f3add | f3sub | f3mul | f12add | f12sub | f12mul =>
    exact elemOp2_faultsOrCompletes _ _ _ _ _ _ _
  | fsqr | fneg | f2sqr | f2neg | f2frob | f3sqr | f3neg | f3frob | f12sqr | f12neg | f12frob | f12uinv
  | f12csqr | fexph | expz => exact elemOp1_faultsOrCompletes _ _ _ _ _ _
  | finv | fsqrt | f2inv | f3inv | f12inv | fexpe | fexp => exact elemOp1?_faultsOrCompletes _ _ _ _ _ _
  | fpow | f12cexp => exact elemOpK_faultsOrCompletes _ _ _ _ _ _ _
  | fisz | fissq | fsign | fbit | f2isz | f3isz | f12isz | pisid | piswf | qisid | qiswf =>
    exact testOp1_faultsOrCompletes _ _ _ _
  | feq | flt | f2eq | f3eq | f12eq | peq | qeq => exact testOp2_faultsOrCompletes _ _ _ _ _
  | f6add | f6sub | f6mul => exact onFp6_faultsOrCompletes _ fun _ => elemOp2_faultsOrCompletes _ _ _ _ _ _ _
  | f6sqr | f6neg | f6frob => exact onFp6_faultsOrCompletes _ fun _ => elemOp1_faultsOrCompletes _ _ _ _ _ _
  | f6inv => exact onFp6_faultsOrCompletes _ fun _ => elemOp1?_faultsOrCompletes _ _ _ _ _ _
  | f6isz => exact onFp6_faultsOrCompletes _ fun _ => testOp1_faultsOrCompletes _ _ _ _
  | f6eq => exact onFp6_faultsOrCompletes _ fun _ => testOp2_faultsOrCompletes _ _ _ _ _
  | pdbl | pneg | qdbl | qneg => exact ptOp1_faultsOrCompletes _ _ _ _ _
  | padd | qadd => exact ptOp2_faultsOrCompletes _ _ _ _ _ _
  | pmadd | qmadd => exact ptOpMixed_faultsOrCompletes _ _ _ _ _ _
  | paff | qaff => exact ptOpAffine_faultsOrCompletes _ _ _ _
  | pzero | pone | qzero | qone => exact ptConst_faultsOrCompletes _ _ _ _
  | psmul | psmulw | qsmul | qsmulw => exact ptOpK_faultsOrCompletes _ _ _ _ _ _
  | winsel1 | winsel2 => exact winOp_faultsOrCompletes _ _ _ _ _
  | precomp => exact execPrecomp_faultsOrCompletes _ _ _
  | miller | miller2 => exact command_ok_faultsOrCompletes (completed_writeMiller _ _ _)
  | pair | pairr => exact pairOp_faultsOrCompletes _ _ _ _ _

/-! ## What a step can do to the configuration (R7, R9) -/

theorem execPending_faultsOrCompletes (s : State) : FaultsOrCompletes s (execPending s) := by
  unfold execPending
  split
  · exact exec_faultsOrCompletes _ _
  · exact takeFault_faultsOrCompletes _ _

theorem sequence_next_cfg (s : State) : ∃ t, sequence s = .next t ∧ t.cfg = s.cfg := by
  unfold sequence
  split
  · exact (execPending_faultsOrCompletes s).next_cfg
  · exact ⟨s, rfl, rfl⟩

@[simp] theorem softReset_cfg (s : State) : (softReset s).cfg = s.cfg := rfl

@[simp] theorem hardReset_cfg (s : State) (cells : List Host.Cell) : (hardReset s cells).cfg = s.cfg := rfl

@[simp] theorem writeWindow_cfg (s : State) (a : Nat) (w : Word) : (writeWindow s a w).cfg = s.cfg := by
  unfold writeWindow; split <;> rfl

@[simp] theorem writeCtrl_cfg (s : State) (w : Word) : (writeCtrl s w).cfg = s.cfg := by
  unfold writeCtrl
  split
  · rfl
  · split <;> rfl

@[simp] theorem writeStatus_cfg (s : State) (w : Word) : (writeStatus s w).cfg = s.cfg := by
  unfold writeStatus; split <;> rfl

@[simp] theorem writeCmd_cfg (s : State) (w : Word) : (writeCmd s w).cfg = s.cfg := by
  unfold writeCmd; split <;> rfl

@[simp] theorem writeReadOnly_cfg (s : State) : (writeReadOnly s).cfg = s.cfg := by
  unfold writeReadOnly; split <;> rfl

@[simp] theorem hostWrite_cfg (s : State) (haddr : BitVec 11) (w : Word) :
    (hostWrite s haddr w).cfg = s.cfg := by
  unfold hostWrite
  split
  · exact writeWindow_cfg _ _ _
  · split <;> simp

/-- Every event answers a next state and keeps the configuration. -/
theorem handle_next_cfg (e : Event) (s : State) : ∃ t, handle e s = .next t ∧ t.cfg = s.cfg := by
  cases e with
  | sequencer => exact sequence_next_cfg s
  | hostRead haddr => exact ⟨_, rfl, hostRead_cfg s haddr⟩
  | hostWrite haddr w => exact ⟨_, rfl, hostWrite_cfg s haddr w⟩
  | hardReset cells => exact ⟨_, rfl, hardReset_cfg s cells⟩

theorem nextEvent_next_cfg (s : State) : ∃ t, nextEvent s = .next t ∧ t.cfg = s.cfg := by
  unfold nextEvent
  split
  · exact sequence_next_cfg s
  · exact handle_next_cfg _ _

/-- A step of a well-formed configuration answers a next state with that configuration (R8, R7). -/
theorem step_next_cfg {s : State} (h : s.cfg.wfCheck = true) : ∃ t, step s = .next t ∧ t.cfg = s.cfg := by
  obtain ⟨t, ht, hcfg⟩ := nextEvent_next_cfg s
  exact ⟨t, by rw [step, if_pos h, ht], hcfg⟩

/-- A step of any other configuration is refused (R9, U1). -/
theorem step_refused {s : State} (h : ¬s.cfg.wfCheck = true) : step s = .refused .configNotWellFormed :=
  if_neg h

/-! ## The representation (R11, R12) -/

/-- `R * RINV = 1` modulo `p`: the modulus is an odd prime, so it does not divide a power of 2 (R11). -/
theorem montR_mul_montRInv {c : Config} (h : c.WF) : montR c * montRInv c % c.p = 1 := by
  obtain ⟨hprime, hcheck⟩ := h
  have hodd : c.p ≠ 2 := fun h2 => by have := (modulus_facts hcheck).1; omega
  have hR1 : montR1 c % c.p ≠ 0 := by
    rw [montR1, Nat.mod_mod]
    intro h0
    have hdvd : c.p ∣ 2 := hprime.dvd_of_dvd_pow (Nat.dvd_of_mod_eq_zero h0)
    exact hodd ((Nat.prime_dvd_prime_iff_eq hprime Nat.prime_two).1 hdvd)
  calc montR c * montRInv c % c.p = montR1 c * montRInv c % c.p := (Nat.mod_mul_mod _ _ _).symm
    _ = 1 := mul_invMod hprime hR1

/-- Multiplying by two factors whose product is 1, with a reduction after each, gives back a residue. -/
theorem mul_mod_mul_mod_cancel {p x a b : Nat} (hx : x < p) (hab : a * b % p = 1) :
    x * a % p * b % p = x := by
  calc x * a % p * b % p = x * (a * b % p) % p := by rw [Nat.mod_mul_mod, mul_assoc, Nat.mul_mod_mod]
    _ = x := by rw [hab, mul_one, Nat.mod_eq_of_lt hx]

theorem val_barrett {c : Config} (h : c.redmode = .barrett) (x : Nat) : val c x = x := by rw [val, h]
theorem rep_barrett {c : Config} (h : c.redmode = .barrett) (x : Nat) : rep c x = x := by rw [rep, h]

theorem val_mont {c : Config} (h : c.redmode = .mont) (x : Nat) : val c x = x * montRInv c % c.p := by
  rw [val, h]

theorem rep_mont {c : Config} (h : c.redmode = .mont) (x : Nat) : rep c x = x * montR c % c.p := by
  rw [rep, h]

section
variable {c : Config} {x : Nat}

theorem val_lt (h : c.WF) (hx : x < c.p) : val c x < c.p := by
  cases hm : c.redmode with
  | mont => rw [val_mont hm]; exact Nat.mod_lt _ h.1.pos
  | barrett => rwa [val_barrett hm]

theorem rep_lt (h : c.WF) (hx : x < c.p) : rep c x < c.p := by
  cases hm : c.redmode with
  | mont => rw [rep_mont hm]; exact Nat.mod_lt _ h.1.pos
  | barrett => rwa [rep_barrett hm]

theorem val_rep (h : c.WF) (hx : x < c.p) : val c (rep c x) = x := by
  cases hm : c.redmode with
  | mont => rw [val_mont hm, rep_mont hm]; exact mul_mod_mul_mod_cancel hx (montR_mul_montRInv h)
  | barrett => rw [val_barrett hm, rep_barrett hm]

theorem rep_val (h : c.WF) (hx : x < c.p) : rep c (val c x) = x := by
  cases hm : c.redmode with
  | mont =>
    rw [rep_mont hm, val_mont hm]
    exact mul_mod_mul_mod_cancel hx (mul_comm (montR c) _ ▸ montR_mul_montRInv h)
  | barrett => rw [rep_barrett hm, val_barrett hm]

end

/-! ## The obligations -/

/-- Settles O8: the check of a step is `CfgWF`, and every event that passes it answers a next state. -/
theorem stepAlwaysAnswers : Obligations.StepAlwaysAnswers := by
  intro s
  rw [Config.wf_iff]
  refine ⟨fun h => ?_, step_refused⟩
  obtain ⟨t, ht, -⟩ := step_next_cfg h
  exact ⟨t, ht⟩

/-- Settles O11: the one next state of a step has the configuration of the state before it. -/
theorem configNeverChanges : Obligations.ConfigNeverChanges := by
  intro s t hstep
  by_cases h : s.cfg.wfCheck = true
  · obtain ⟨u, hu, hcfg⟩ := step_next_cfg h
    cases hu.symm.trans hstep
    exact hcfg
  · cases (step_refused h).symm.trans hstep

/-- Settles O23: with MONT the two maps multiply by `RINV` and by `R`, which are inverse modulo `p`. -/
theorem representationBijective : Obligations.RepresentationBijective := by
  intro c h x hx
  refine ⟨val_lt h hx, rep_lt h hx, val_rep h hx, rep_val h hx,
    fun hm => ⟨val_barrett hm x, rep_barrett hm x⟩, fun hm => ⟨?_, rep_mont hm x⟩⟩
  have hR : rep c (val c x) = x := rep_val h hx
  rwa [rep_mont hm] at hR

end Sys2Proof.Machine

/-! PROOFS. The state and the host port (10_state.md): what every command can write, the invariant, the test flag,
and what the host reads and writes. -/

namespace Sys2Proof.Machine

/-! ## The fields of values and the cells that hold them (R13, R25, R140) -/

/-- The operations `K` are those of a ring (`FldModel`), and an element of canonical coordinates is what `K` reads
from cells below `p`, writes as values below `p`, and answers for an inverse and a Frobenius power. -/
structure CellFld {α : Type} (p : Nat) (K : Fld α) (ok : α → Prop) : Prop where
  model : ∃ (A : Type) (_ : CommRing A) (_ : Nontrivial A) (φ : α → A), FldModel K A φ ok
  get_ok : ∀ (rd : Nat → Nat) (b : Nat), (∀ i < K.arity, rd (b + i) < p) → ok (K.get rd b)
  put_length : ∀ a, (K.put a).length = K.arity
  put_lt : ∀ a, ok a → ∀ v ∈ K.put a, v < p
  inv_ok : ∀ a, ok (K.inv a)
  frob_ok : ∀ k a, ok a → ok (K.frob k a)

namespace CellFld

variable {α : Type} {p : Nat} {K : Fld α} {ok : α → Prop}

theorem zero_ok (h : CellFld p K ok) : ok K.zero := by
  obtain ⟨_, _, _, _, hm⟩ := h.model
  exact hm.zero_ok

theorem one_ok (h : CellFld p K ok) : ok K.one := by
  obtain ⟨_, _, _, _, hm⟩ := h.model
  exact hm.one_ok

theorem add_ok (h : CellFld p K ok) (a b : α) : ok (K.add a b) := by
  obtain ⟨_, _, _, _, hm⟩ := h.model
  exact hm.add_ok a b

theorem sub_ok (h : CellFld p K ok) (a b : α) : ok (K.sub a b) := by
  obtain ⟨_, _, _, _, hm⟩ := h.model
  exact hm.sub_ok a b

theorem mul_ok (h : CellFld p K ok) (a b : α) : ok (K.mul a b) := by
  obtain ⟨_, _, _, _, hm⟩ := h.model
  exact hm.mul_ok a b

theorem neg_ok (h : CellFld p K ok) (a : α) : ok (K.neg a) := by
  obtain ⟨_, _, _, _, hm⟩ := h.model
  exact hm.neg_ok a

end CellFld

/-- The base field (R140, R143, R162). -/
theorem cellFld_fpOps {p : Nat} (hp : 1 < p) : CellFld p (fpOps p) (· < p) where
  model := by
    have := Fact.mk hp
    exact ⟨ZMod p, inferInstance, inferInstance, _, fpModel hp⟩
  get_ok _ _ h := h 0 Nat.one_pos
  put_length _ := rfl
  put_lt _ ha _ hv := List.mem_singleton.1 hv ▸ ha
  inv_ok := invMod_lt (by omega)
  frob_ok _ _ ha := ha

section
variable {α : Type} {p : Nat} {K : Fld α} {ok : α → Prop}

/-- A quadratic extension (R181, R183). -/
theorem cellFld_quadExt (h : CellFld p K ok) (N : α) :
    CellFld p (quadExt p K N) (fun a => ok a.c0 ∧ ok a.c1) where
  model := by
    obtain ⟨_, _, _, φ, hm⟩ := h.model
    exact ⟨_, _, nontrivial_adjoinRoot two_ne_zero _, _, quadModel hm p N⟩
  get_ok rd b hr := by
    have hr' : ∀ i < 2 * K.arity, rd (b + i) < p := hr
    exact ⟨h.get_ok rd b fun i hi => hr' i (by omega),
      h.get_ok rd _ fun i hi => by rw [Nat.add_assoc]; exact hr' _ (by omega)⟩
  put_length a := by
    simp only [quadExt, List.length_append, h.put_length]
    omega
  put_lt a ha := by
    obtain ⟨h0, h1⟩ := ha
    simp only [quadExt, List.forall_mem_append]
    exact ⟨h.put_lt _ h0, h.put_lt _ h1⟩
  inv_ok _ := ⟨h.mul_ok _ _, h.neg_ok _⟩
  frob_ok k _ ha := ⟨h.frob_ok k _ ha.1, h.mul_ok _ _⟩

/-- A cubic extension (R201, R203). -/
theorem cellFld_cubExt (h : CellFld p K ok) (N : α) :
    CellFld p (cubExt p K N) (fun a => ok a.c0 ∧ ok a.c1 ∧ ok a.c2) where
  model := by
    obtain ⟨_, _, _, φ, hm⟩ := h.model
    exact ⟨_, _, nontrivial_adjoinRoot three_ne_zero _, _, cubModel hm p N⟩
  get_ok rd b hr := by
    have hr' : ∀ i < 3 * K.arity, rd (b + i) < p := hr
    exact ⟨h.get_ok rd b fun i hi => hr' i (by omega),
      h.get_ok rd _ fun i hi => by rw [Nat.add_assoc]; exact hr' _ (by omega),
      h.get_ok rd _ fun i hi => by rw [Nat.add_assoc]; exact hr' _ (by omega)⟩
  put_length a := by
    simp only [cubExt, List.length_append, h.put_length]
    omega
  put_lt a ha := by
    obtain ⟨h0, h1, h2⟩ := ha
    simp only [cubExt, List.forall_mem_append]
    exact ⟨⟨h.put_lt _ h0, h.put_lt _ h1⟩, h.put_lt _ h2⟩
  inv_ok _ := ⟨h.mul_ok _ _, h.mul_ok _ _, h.mul_ok _ _⟩
  frob_ok k _ ha := ⟨h.frob_ok k _ ha.1, h.mul_ok _ _, h.mul_ok _ _⟩

end

/-! The fields of a configuration. -/

/-- Every coordinate of an Fp3 value is canonical. -/
def ok3 (c : Config) (a : F3) : Prop := a.c0 < c.p ∧ a.c1 < c.p ∧ a.c2 < c.p

/-- Every coordinate of an Fp12 value is canonical. -/
def ok12 (c : Config) (a : F12) : Prop := ok6 c a.c0 ∧ ok6 c a.c1

section
variable {c : Config}

theorem cellFld_fp (h : c.WF) : CellFld c.p (fp c) (· < c.p) := cellFld_fpOps h.1.one_lt

theorem cellFld_fp2 (h : c.WF) : CellFld c.p (fp2 c) (ok2 c) := cellFld_quadExt (cellFld_fp h) _

theorem cellFld_fp3 (h : c.WF) : CellFld c.p (fp3 c) (ok3 c) := cellFld_cubExt (cellFld_fp h) _

theorem cellFld_fp6Over2 (h : c.WF) (n : F2) : CellFld c.p (fp6Over2 c n) (ok6 c) :=
  cellFld_cubExt (cellFld_fp2 h) n

theorem cellFld_fp6Over3 (h : c.WF) (n : F3) :
    CellFld c.p (fp6Over3 c n) (fun a => ok3 c a.c0 ∧ ok3 c a.c1) := cellFld_quadExt (cellFld_fp3 h) n

theorem cellFld_fp12 (h : c.WF) : CellFld c.p (fp12 c) (ok12 c) := cellFld_quadExt (cellFld_fp6Over2 h _) _

end

/-! ## Canonical results of the value functions -/

/-- What holds of the start and of every product holds of the result of square-and-multiply (R154). -/
theorem powLoop_ok {α : Type} {ok : α → Prop} {mul : α → α → α} (hmul : ∀ x y, ok (mul x y)) (a : α)
    (e i : Nat) {r : α} (hr : ok r) : ok (powLoop mul a e i r) := by
  induction i generalizing r with
  | zero => exact hr
  | succ i ih =>
    rw [powLoop]
    apply ih
    split <;> exact hmul _ _

theorem CellFld.pow_ok {α : Type} {p : Nat} {K : Fld α} {ok : α → Prop} (h : CellFld p K ok) (a : α)
    (e : Nat) : ok (K.pow a e) := powLoop_ok h.mul_ok a e _ h.one_ok

theorem conjQuad_ok {α : Type} {p : Nat} {K : Fld α} {ok : α → Prop} (h : CellFld p K ok) {a : Quad α}
    (ha : ok a.c0) : ok (conjQuad K a).c0 ∧ ok (conjQuad K a).c1 := ⟨ha, h.neg_ok _⟩

/-! The square root (R155). -/

theorem tonelli_lt {p : Nat} (hp : 0 < p) (fuel z : Nat) {x : Nat} (hx : x < p) (b v : Nat) :
    tonelli p fuel z x b v < p := by
  induction fuel generalizing z x b v with
  | zero => exact hx
  | succ fuel ih =>
    rw [tonelli]
    split
    · exact hx
    · exact ih _ (Nat.mod_lt _ hp) _ _

theorem normRoot_lt {c : Config} {r : Nat} (hr : r < c.p) : normRoot c r < c.p := by
  unfold normRoot
  split <;> omega

theorem sqrtOrFault_lt {c : Config} (hp : 0 < c.p) {a r : Nat} (h : sqrtOrFault c a = .ok r) : r < c.p := by
  unfold sqrtOrFault at h
  split at h
  · cases h; exact hp
  · split at h
    · cases h; exact normRoot_lt (tonelli_lt hp _ _ (Nat.mod_lt _ hp) _ _)
    · cases h

/-! Points (R262 to R268, R300, R301). -/

section
variable {α : Type} {p : Nat} {K : Fld α} {ok : α → Prop} (hK : CellFld p K ok)
include hK

theorem CellFld.ptZero_ok : okPt ok (ptZero K) := ⟨hK.zero_ok, hK.one_ok, hK.zero_ok⟩

theorem CellFld.ptNeg_ok {P : Pt α} (hP : okPt ok P) : okPt ok (ptNeg K P) := by
  obtain ⟨hx, -, hz⟩ := hP
  exact ⟨hx, hK.neg_ok _, hz⟩

variable [DecidableEq α] (a : α)

theorem CellFld.ptDbl_ok {P : Pt α} (hP : okPt ok P) : okPt ok (ptDbl K a P) := by
  obtain ⟨_, _, _, _, hm⟩ := hK.model
  exact okPt_ptDbl hm a hP

theorem CellFld.ptAdd_ok {P Q : Pt α} (hP : okPt ok P) (hQ : okPt ok Q) : okPt ok (ptAdd K a P Q) := by
  obtain ⟨_, _, _, _, hm⟩ := hK.model
  exact okPt_ptAdd hm a hP hQ

theorem CellFld.ptMadd_ok {P : Pt α} {Q : Aff α} (hP : okPt ok P) (hx : ok Q.x) (hy : ok Q.y) :
    okPt ok (ptMadd K a P Q) := by
  obtain ⟨_, _, _, _, hm⟩ := hK.model
  exact okPt_ptMadd hm a hP hx hy

theorem CellFld.smul_ok {P : Pt α} (hP : okPt ok P) (k : Nat) : okPt ok (smul K a P k) := by
  have loop : ∀ i acc, okPt ok acc → okPt ok (smulLoop K a P k i acc) := by
    intro i
    induction i with
    | zero => exact fun acc h => h
    | succ i ih =>
      intro acc h
      rw [smulLoop]
      apply ih
      have hd := hK.ptDbl_ok a h
      split
      · exact hK.ptAdd_ok a hd hP
      · exact hd
  unfold smul
  split
  · exact hK.ptZero_ok
  · exact loop _ _ hP

theorem CellFld.windowTable_ok {P : Pt α} (hP : okPt ok P) (w : Nat) :
    ∀ Q ∈ windowTable K a P w, okPt ok Q := by
  have entries : ∀ n prev, okPt ok prev → ∀ Q ∈ windowEntries K a P n prev, okPt ok Q := by
    intro n
    induction n with
    | zero => intro prev _ Q hQ; cases hQ
    | succ n ih =>
      intro prev hprev
      have hnext := hK.ptAdd_ok a hprev hP
      exact List.forall_mem_cons.2 ⟨hnext, ih _ hnext⟩
  exact List.forall_mem_cons.2 ⟨hK.ptZero_ok, List.forall_mem_cons.2 ⟨hP, entries _ _ hP⟩⟩

theorem CellFld.dblTimes_ok (n : Nat) {P : Pt α} (hP : okPt ok P) : okPt ok (dblTimes K a n P) := by
  induction n generalizing P with
  | zero => exact hP
  | succ n ih => exact ih (hK.ptDbl_ok a hP)

theorem CellFld.smulw_ok {P : Pt α} (hP : okPt ok P) (k w : Nat) : okPt ok (smulw K a P k w) := by
  have entry : ∀ d, okPt ok ((windowTable K a P w).getD d (ptZero K)) := by
    intro d
    rw [List.getD_eq_getElem?_getD]
    cases hd : (windowTable K a P w)[d]? with
    | none => exact hK.ptZero_ok
    | some Q => exact hK.windowTable_ok a hP w Q (List.mem_of_getElem? hd)
  have loop : ∀ i acc, okPt ok acc → okPt ok (smulwLoop K a (windowTable K a P w) k w i acc) := by
    intro i
    induction i with
    | zero => exact fun acc h => h
    | succ i ih =>
      intro acc h
      have hd := hK.dblTimes_ok a w h
      rw [smulwLoop]
      apply ih
      split
      · exact hK.ptAdd_ok a hd (entry _)
      · exact hd
  unfold smulw
  split
  · exact hK.ptZero_ok
  · exact loop _ _ hK.ptZero_ok

end

/-! The pairing engine (R320 to R324, R350 to R361). -/

theorem precomputeLoop_length (c : Config) (q : Aff F2) (i : Nat) (r : Pt F2) :
    (precomputeLoop c q i r).2.length = i + popcountBelow c.loopcount i := by
  induction i generalizing r with
  | zero => rfl
  | succ i ih =>
    rw [precomputeLoop, popcountBelow]
    split
    · next hb => simp only [List.length_cons, ih, hb, Bool.toNat_true]; omega
    · next hb =>
      simp only [List.length_cons, ih, Bool.not_eq_true _ ▸ hb, Bool.toNat_false]
      omega

/-- The leading bit is the one the main loop does not look at (R29, R322). -/
theorem popcount_sub_one (n : Nat) : popcount n - 1 = popcountBelow n (bitlen n - 1) := by
  by_cases h : n = 0
  · subst h; rfl
  · have hlen : bitlen n = n.log2 + 1 := if_neg h
    have hbit : n.testBit n.log2 = true := Nat.testBit_log2 h
    rw [popcount, hlen, popcountBelow, hbit]
    rfl

/-- A precomputation fills its bank (R29, R322). -/
theorem precompute_recs_length {c : Config} {Q : Pt F2} {B : Bank} (h : precompute c Q = .ok B) :
    B.recs.length = nrec c := by
  unfold precompute at h
  dsimp only at h
  rw [nrec, popcount_sub_one]
  cases hn : c.loopneg with
  | false =>
    simp only [hn, Bool.false_eq_true, if_false, Except.ok.injEq] at h
    subst h
    exact precomputeLoop_length _ _ _ _
  | true =>
    simp only [hn, if_true] at h
    cases hl : negativeCountStep c (precomputeLoop c (ptToAffine (fp2 c) Q) (bitlen c.loopcount - 1)
        ⟨(ptToAffine (fp2 c) Q).x, (ptToAffine (fp2 c) Q).y, (fp2 c).one⟩).1 with
    | error e => simp [hl, Except.map] at h
    | ok l =>
      simp only [hl, Except.map, Except.ok.injEq] at h
      subst h
      simp only [List.length_append, List.length_singleton, precomputeLoop_length, Bool.toNat_true]

section
variable {c : Config} (h : c.WF)
include h

theorem mulLines_ok (pairs : List (Aff Fp × List LineRec)) (idx : Nat) {f : F12} (hf : ok12 c f) :
    ok12 c (mulLines c pairs idx f) := by
  unfold mulLines
  induction pairs generalizing f with
  | nil => exact hf
  | cons pr pairs ih => exact ih ((cellFld_fp12 h).mul_ok _ _)

theorem miller_ok (pairs : List (Aff Fp × List LineRec)) : ok12 c (miller c pairs) := by
  have loop : ∀ i idx f, ok12 c f → ok12 c (millerLoop c pairs i idx f).1 := by
    intro i
    induction i with
    | zero => exact fun idx f hf => hf
    | succ i ih =>
      intro idx f _
      have hf' := mulLines_ok h pairs idx ((cellFld_fp12 h).mul_ok f f)
      rw [millerLoop]
      split
      · exact ih _ _ (mulLines_ok h pairs _ hf')
      · exact ih _ _ hf'
  have hr := loop (bitlen c.loopcount - 1) 0 _ (cellFld_fp12 h).one_ok
  unfold miller
  dsimp only
  split
  · exact mulLines_ok h pairs _ hr
  · exact hr

theorem conj12_ok {a : F12} (ha : ok12 c a) : ok12 c (conj12 c a) :=
  conjQuad_ok (cellFld_fp6Over2 h _) ha.1

/-- Reduced coordinates are canonical, whatever `CSQR_OFF` answers (R351). -/
theorem canon12_ok (a : F12) : ok12 c (canon12 c a) := by
  have hm : ∀ x, x % c.p < c.p := fun x => Nat.mod_lt x h.1.pos
  exact ⟨⟨⟨hm _, hm _⟩, ⟨hm _, hm _⟩, hm _, hm _⟩, ⟨hm _, hm _⟩, ⟨hm _, hm _⟩, hm _, hm _⟩

theorem cycSqr_ok (a : F12) : ok12 c (cycSqr c a) := by
  unfold cycSqr
  split
  · exact (cellFld_fp12 h).mul_ok a a
  · exact canon12_ok h _

theorem cycExp_ok {a : F12} (ha : ok12 c a) (e : Nat) : ok12 c (cycExp c a e) := by
  have loop : ∀ i r, ok12 c r → ok12 c (cycExpLoop c a e i r) := by
    intro i
    induction i with
    | zero => exact fun r hr => hr
    | succ i ih =>
      intro r _
      rw [cycExpLoop]
      apply ih
      split
      · exact (cellFld_fp12 h).mul_ok _ _
      · exact cycSqr_ok h r
  unfold cycExp
  split
  · exact (cellFld_fp12 h).one_ok
  · exact loop _ _ ha

theorem expZ_ok {a : F12} (ha : ok12 c a) : ok12 c (expZ c a) := by
  have hy := cycExp_ok h ha c.zabs
  unfold expZ
  dsimp only
  split
  · exact conj12_ok h hy
  · exact hy

theorem easyPart_ok (a : F12) : ok12 c (easyPart c a) := (cellFld_fp12 h).mul_ok _ _

theorem slotGet_ok {t : Slots} (ht : ∀ x ∈ t, ok12 c x.2) (d : Slot) : ok12 c (slotGet t d) := by
  unfold slotGet
  cases hl : t.lookup d with
  | none =>
    have h0 : 0 < c.p := h.1.pos
    exact ⟨⟨⟨h0, h0⟩, ⟨h0, h0⟩, h0, h0⟩, ⟨h0, h0⟩, ⟨h0, h0⟩, h0, h0⟩
  | some a =>
    obtain ⟨l1, l2, hsplit, -⟩ := List.lookup_eq_some_iff.1 hl
    exact ht (d, a) (by rw [hsplit]; simp)

/-- Every slot of the hard part stays canonical (R354). -/
theorem chainStep_ok {t : Slots} (ht : ∀ x ∈ t, ok12 c x.2) (st : ChainStep) :
    ∀ x ∈ chainStep c t st, ok12 c x.2 := by
  have hg := slotGet_ok h ht
  have hK := cellFld_fp12 h
  cases st with
  | csq d s => exact List.forall_mem_cons.2 ⟨cycSqr_ok h _, ht⟩
  | mul d s1 s2 => exact List.forall_mem_cons.2 ⟨hK.mul_ok _ _, ht⟩
  | frb d s k => exact List.forall_mem_cons.2 ⟨hK.frob_ok _ _ (hg s), ht⟩
  | uin d s => exact List.forall_mem_cons.2 ⟨conj12_ok h (hg s), ht⟩
  | exz d s => exact List.forall_mem_cons.2 ⟨expZ_ok h (hg s), ht⟩

theorem hardPart_ok {a : F12} (ha : ok12 c a) : ok12 c (hardPart c a) := by
  have chain : ∀ (l : List ChainStep) (t : Slots), (∀ x ∈ t, ok12 c x.2) →
      ∀ x ∈ l.foldl (chainStep c) t, ok12 c x.2 := by
    intro l
    induction l with
    | nil => exact fun t ht => ht
    | cons st l ih => exact fun t ht => ih _ (chainStep_ok h ht st)
  exact slotGet_ok h (chain _ _ (by simpa using ha)) _

theorem finalExp_ok (a : F12) : ok12 c (finalExp c a) := hardPart_ok h (easyPart_ok h a)

omit h in
theorem orInvZero_ok {g : F12 → F12} {a b : F12} (hg : ok12 c (g a)) (hb : orInvZero c g a = .ok b) :
    ok12 c b := by
  unfold orInvZero at hb
  split at hb
  · cases hb
  · cases hb; exact hg

end

theorem invOrFault_ok {α : Type} [DecidableEq α] {p : Nat} {K : Fld α} {ok : α → Prop} (h : CellFld p K ok)
    {a b : α} (hb : invOrFault K a = .ok b) : ok b := by
  unfold invOrFault at hb
  split at hb
  · cases hb
  · cases hb; exact h.inv_ok a

/-! Generators (R9). -/

theorem gen_ok {c : Config} (h : c.WF) :
    (c.gen1.x < c.p ∧ c.gen1.y < c.p) ∧ ok2 c c.gen2.x ∧ ok2 c c.gen2.y := by
  have hg : groupsOk c = true := by
    have hw := h.2
    simp only [Config.wfCheck, Bool.and_eq_true] at hw
    exact hw.2.2.1
  simp only [groupsOk, Bool.and_eq_true, inFp2, inFp, decide_eq_true_eq] at hg
  obtain ⟨⟨⟨⟨⟨⟨⟨_, hx⟩, hy⟩, _⟩, _⟩, hx2⟩, hy2⟩, _⟩ := hg
  exact ⟨⟨hx, hy⟩, hx2, hy2⟩

/-! ## Operands that passed the checks (R15, R23, R92) -/

section
variable {n : Needs} {s : State}

theorem dest_of_checks (h : checkNeeds n s = none) {b : CellIdx} {m : Nat} (hm : (b.toNat, m) ∈ n.dst) :
    Dest b m :=
  ((checkNeeds_none_iff n s).1 h).2.1 _ (List.mem_append_left _ hm)

theorem source_of_checks (h : checkNeeds n s = none) {b : CellIdx} {m : Nat} (hm : (b.toNat, m) ∈ n.src) :
    Source s b m := by
  obtain ⟨-, hfit, hvalid⟩ := (checkNeeds_none_iff n s).1 h
  exact ⟨hfit _ (List.mem_append_right _ hm), ((sourcesValid_iff n s).1 hvalid).1 _ hm⟩

end

section
variable {α : Type} {K : Fld α} {ok : α → Prop} {s : State} {b : CellIdx} {n : Nat}

theorem rawCell_lt (hs : Sound s) (h : Source s b n) {i : Nat} (hi : i < n) :
    rawCell s (b.toNat + i) < s.cfg.p := by
  obtain ⟨hfit, hvalid⟩ := h
  exact hs.2 _ (by omega) (hvalid i hi)

theorem rawCell_base_lt (hs : Sound s) (h : Source s b 1) : rawCell s b.toNat < s.cfg.p :=
  rawCell_lt hs h Nat.one_pos

theorem canon_lt (hs : Sound s) (h : Source s b n) {i : Nat} (hi : i < n) :
    canon s (b.toNat + i) < s.cfg.p := val_lt hs.1 (rawCell_lt hs h hi)

/-- An element inside a valid source span, from its offset `o` in the span on. -/
theorem readElem_ok (hK : CellFld s.cfg.p K ok) (hs : Sound s) (h : Source s b n) {o : Nat}
    (ho : o + K.arity ≤ n) : ok (readElem K s (b.toNat + o)) :=
  hK.get_ok _ _ fun i hi => by rw [Nat.add_assoc]; exact canon_lt hs h (by omega)

theorem readElem_base_ok (hK : CellFld s.cfg.p K ok) (hs : Sound s) (h : Source s b K.arity) :
    ok (readElem K s b.toNat) := readElem_ok hK hs h (o := 0) (by omega)

theorem readPt_ok (hK : CellFld s.cfg.p K ok) (hs : Sound s) (h : Source s b (3 * K.arity)) :
    okPt ok (readPt K s b.toNat) :=
  ⟨readElem_ok hK hs h (o := 0) (by omega), readElem_ok hK hs h (by omega), readElem_ok hK hs h (by omega)⟩

theorem readAff_ok (hK : CellFld s.cfg.p K ok) (hs : Sound s) (h : Source s b (2 * K.arity)) :
    ok (readAff K s b.toNat).x ∧ ok (readAff K s b.toNat).y :=
  ⟨readElem_ok hK hs h (o := 0) (by omega), readElem_ok hK hs h (by omega)⟩

end

theorem rawCells_length (s : State) (b n : Nat) : (rawCells s b n).length = n := by
  induction n generalizing b with
  | zero => rfl
  | succ n ih => simp [rawCells, ih]

theorem mem_rawCells {s : State} {b n v : Nat} (h : v ∈ rawCells s b n) : ∃ i < n, v = rawCell s (b + i) := by
  induction n generalizing b with
  | zero => cases h
  | succ n ih =>
    obtain rfl | h := List.mem_cons.1 h
    · exact ⟨0, by omega, rfl⟩
    · obtain ⟨i, hi, rfl⟩ := ih h
      exact ⟨i + 1, by omega, by rw [Nat.add_assoc, Nat.add_comm 1]⟩

/-- The bytes of an element are a residue when LDFE and LDRAW take them (R67). -/
theorem loadBelowP_lt {s : State} {addr : XAddr} {v : Nat} (h : loadBelowP s addr = .ok v) : v < s.cfg.p := by
  unfold loadBelowP at h
  split at h
  · cases h
  · split at h
    · cases h
    · cases h; omega

/-! ## What a command can write (R16, R20, R28, R49) -/

/-- The values `vs` go into cells that exist, and are below `p`. -/
def FitsBelowP (s : State) (b : CellIdx) (vs : List Nat) : Prop :=
  b.toNat + vs.length ≤ 128 ∧ ∀ v ∈ vs, v < s.cfg.p

/-- `Writes flag phase s u`: the rule of a command, which may write `T` when `flag` says so and leaves `MLSTATE` at
`phase` when it has one, turns `s` into `u`. What goes into cells is in range when `s` is sound. -/
inductive Writes : Bool → Option MLState → State → State → Prop
  /-- NOP writes nothing. -/
  | nothing (s : State) : Writes false none s s
  | cells (s : State) (b : CellIdx) (vs : List Nat) (h : Sound s → FitsBelowP s b vs) :
      Writes false none s (setCells s b.toNat vs)
  | flag (s : State) (v : Bool) : Writes true none s (setT s v)
  | register (s : State) (k : KIdx) (v : Nat) : Writes false none s (setK s k v)
  | bytes (s : State) (addr : Nat) (vs : List Byte) (h : addr + vs.length ≤ 4096) :
      Writes false none s { s with xmem := memWriteList s.xmem addr vs }
  /-- PRECOMP (R325). -/
  | bank (s : State) (b : BankIdx) (B : Bank) (h : B.recs.length = nrec s.cfg) :
      Writes false (some .notStarted) s (setMl (setBank s b B) .notStarted)
  /-- MILLER and MILLER2 (R326, R327). -/
  | miller (s : State) (b : CellIdx) (vs : List Nat) (h : Sound s → FitsBelowP s b vs) :
      Writes false (some .finished) s (setMl (setCells s b.toNat vs) .finished)
  /-- PAIR and PAIRR (R328, R329). -/
  | pair (s : State) (B : Bank) (b : CellIdx) (vs : List Nat) (hB : B.recs.length = nrec s.cfg)
      (h : Sound s → FitsBelowP s b vs) :
      Writes false (some .finished) s (setMl (setCells (setBank s 0 B) b.toNat vs) .finished)

section
variable {flag : Bool} {phase : Option MLState} {s u : State}

/-- Only a command that may write `T` changes it (R28). -/
theorem Writes.t_eq (h : Writes false phase s u) : u.t = s.t := by
  cases h <;> simp

theorem Writes.mlstate_eq (h : Writes flag phase s u) : u.mlstate = phase.getD s.mlstate := by
  cases h <;> simp

/-- No command leaves the phase of a running Miller loop (R49). -/
theorem Writes.phase_ne (h : Writes flag phase s u) : phase ≠ some .accumulating := by
  cases h <;> simp

theorem Writes.completed (h : Writes flag phase s u) : Completed s (complete u) := by
  cases h with
  | nothing => exact (onlyCompletes_complete s).1
  | cells => exact completed_setCells _ _ _
  | flag => exact completed_setT _ _
  | register => exact completed_setK _ _ _
  | bytes _ addr vs => exact (onlyMem_memWriteList s addr vs).1
  | bank => exact completed_precomp _ _ _
  | miller => apply completed_complete <;> simp
  | pair => apply completed_complete <;> simp

end

/-! ### The part of the invariant that a command's writes touch -/

theorem CellsBelowP.setCells {s : State} (hc : CellsBelowP s) {b : CellIdx} {vs : List Nat}
    (h : FitsBelowP s b vs) : CellsBelowP (setCells s b.toNat vs) := by
  obtain ⟨hfit, hlt⟩ := h
  intro i hi hv
  rw [rawCell_setCells _ _ _ hfit, setCells_cfg]
  rw [cellValid_setCells _ _ _ hfit] at hv
  split
  · rw [List.getD_eq_getElem _ _ (by omega)]
    exact hlt _ (List.getElem_mem _)
  · next hout =>
    rw [if_neg hout] at hv
    exact hc i hi hv

theorem BanksFull.setBank {s : State} (hb : BanksFull s) (b : BankIdx) {B : Bank}
    (hB : B.recs.length = nrec s.cfg) : BanksFull (setBank s b B) := by
  intro d hd hv
  rw [bank_setBank, setBank_cfg]
  rw [bankValid_setBank] at hv
  split
  · exact hB
  · next hne =>
    rw [if_neg hne] at hv
    exact hb d hd hv

theorem banksFull_setCells {s : State} (hb : BanksFull s) (b : Nat) (vs : List Nat) :
    BanksFull (setCells s b vs) := by
  simpa [BanksFull, bank, bankValid] using hb

/-- Cells, banks and XMEM are as the invariant has them (I1, I3, R60). -/
def DataInv (s : State) : Prop := CellsBelowP s ∧ BanksFull s ∧ memWf s.xmem = true

/-- What a command writes keeps cells, banks and XMEM as the invariant has them. -/
theorem Writes.dataInv {flag : Bool} {phase : Option MLState} {s u : State} (h : Writes flag phase s u)
    (hwf : s.cfg.WF) (hd : DataInv s) : DataInv u := by
  obtain ⟨hc, hb, hm⟩ := hd
  cases h with
  | nothing | flag | register => exact ⟨hc, hb, hm⟩
  | cells _ b vs h =>
    exact ⟨hc.setCells (h ⟨hwf, hc⟩), banksFull_setCells hb _ _, by rwa [setCells_xmem]⟩
  | bytes _ addr vs h => exact ⟨hc, hb, memWf_memWriteList hm h⟩
  | bank _ b B h => exact ⟨hc, hb.setBank b h, hm⟩
  | miller _ b vs h =>
    exact ⟨hc.setCells (h ⟨hwf, hc⟩), banksFull_setCells hb _ _, by rwa [setMl_xmem, setCells_xmem]⟩
  | pair _ B b vs hB h =>
    have hcb : CellsBelowP (setBank s 0 B) := hc
    exact ⟨hcb.setCells (h ⟨hwf, hc⟩), banksFull_setCells (hb.setBank 0 hB) _ _,
      by rwa [setMl_xmem, setCells_xmem]⟩

/-! ### The writes of the operand forms -/

theorem writes_setCell {s : State} {b : CellIdx} {v : Nat} (h : Sound s → b.toNat + 1 ≤ 128 ∧ v < s.cfg.p) :
    Writes false none s (setCell s b.toNat v) :=
  .cells s b [v] fun hs => ⟨(h hs).1, by simpa using (h hs).2⟩

/-- Canonical values written as their representations (R12, R13). -/
theorem fitsBelowP_rep {s : State} (hs : Sound s) {b : CellIdx} {n : Nat} {vs : List Nat} (hn : vs.length = n)
    (hb : Dest b n) (hv : ∀ v ∈ vs, v < s.cfg.p) : FitsBelowP s b (vs.map (rep s.cfg)) := by
  subst hn
  exact ⟨by simpa [Dest] using hb, by simpa using fun v hm => rep_lt hs.1 (hv v hm)⟩

section
variable {α : Type} {K : Fld α} {ok : α → Prop} {s : State} {b : CellIdx}

theorem writes_writeElem {a : α} (hK : s.cfg.WF → CellFld s.cfg.p K ok) (hb : Dest b K.arity)
    (ha : Sound s → ok a) : Writes false none s (writeElem K s b.toNat a) :=
  .cells s b _ fun hs => fitsBelowP_rep hs ((hK hs.1).put_length a) hb ((hK hs.1).put_lt a (ha hs))

theorem writes_writePt {P : Pt α} (hK : s.cfg.WF → CellFld s.cfg.p K ok) (hb : Dest b (3 * K.arity))
    (hP : Sound s → okPt ok P) : Writes false none s (writePt K s b.toNat P) := by
  refine .cells s b _ fun hs => fitsBelowP_rep hs ?_ hb ?_
  · simp only [List.length_append, (hK hs.1).put_length]
    omega
  · obtain ⟨hx, hy, hz⟩ := hP hs
    simp only [List.forall_mem_append]
    exact ⟨⟨(hK hs.1).put_lt _ hx, (hK hs.1).put_lt _ hy⟩, (hK hs.1).put_lt _ hz⟩

theorem writes_writeAff {P : Aff α} (hK : s.cfg.WF → CellFld s.cfg.p K ok) (hb : Dest b (2 * K.arity))
    (hP : Sound s → ok P.x ∧ ok P.y) : Writes false none s (writeAff K s b.toNat P) := by
  refine .cells s b _ fun hs => fitsBelowP_rep hs ?_ hb ?_
  · simp only [List.length_append, (hK hs.1).put_length]
    omega
  · simp only [List.forall_mem_append]
    exact ⟨(hK hs.1).put_lt _ (hP hs).1, (hK hs.1).put_lt _ (hP hs).2⟩

end

/-- A Miller value and its twelve cells. -/
theorem fitsBelowP_put12 {s : State} (hs : Sound s) {b : CellIdx} (hb : Dest b (fp12 s.cfg).arity) {f : F12}
    (hf : ok12 s.cfg f) : FitsBelowP s b (((fp12 s.cfg).put f).map (rep s.cfg)) :=
  fitsBelowP_rep hs ((cellFld_fp12 hs.1).put_length f) hb ((cellFld_fp12 hs.1).put_lt f hf)

theorem writes_xmemStore {s u : State} {addr n v : Nat} (h : xmemStore s addr n v = .ok u) :
    Writes false none s u := by
  obtain ⟨-, he⟩ | ⟨hfit, hok⟩ := xmemStore_cases s addr n v
  · cases he.symm.trans h
  · cases hok.symm.trans h
    exact .bytes s addr _ (by simpa using hfit)

/-! ## What each shape of command does (R68, R92) -/

/-- The outcome is a next state: the fault entry, or the writes and the completion. -/
def Executes (flag : Bool) (phase : Option MLState) (s : State) (o : Out) : Prop :=
  ∃ t, o = .next t ∧ ((∃ c, t = takeFault c s) ∨ ∃ u, Writes flag phase s u ∧ t = complete u)

section
variable {flag : Bool} {phase : Option MLState} {s : State}

theorem takeFault_executes (c : FaultCode) : Executes flag phase s (.next (takeFault c s)) :=
  ⟨_, rfl, .inl ⟨c, rfl⟩⟩

theorem command_executes {n : Needs} {act : State → Result}
    (h : checkNeeds n s = none → ∀ u, act s = .ok u → Writes flag phase s u) :
    Executes flag phase s (command n act s) := by
  obtain ⟨c, -, ho⟩ | ⟨-, c, -, ho⟩ | ⟨hn, u, hu, ho⟩ := command_cases n act s
  · exact ⟨_, ho, .inl ⟨c, rfl⟩⟩
  · exact ⟨_, ho, .inl ⟨c, rfl⟩⟩
  · exact ⟨_, ho, .inr ⟨u, h hn u hu, rfl⟩⟩

/-- A command whose rule never faults. -/
theorem command_ok_executes {n : Needs} {act : State → State}
    (h : checkNeeds n s = none → Writes flag phase s (act s)) :
    Executes flag phase s (command n (fun s => .ok (act s)) s) :=
  command_executes fun hn _ hu => Except.ok.inj hu ▸ h hn

/-- A command whose rule writes a value that another function answers or refuses. -/
theorem command_map_executes {β : Type} {n : Needs} {rule : State → Except FaultCode β}
    {write : State → β → State}
    (h : checkNeeds n s = none → ∀ a, rule s = .ok a → Writes flag phase s (write s a)) :
    Executes flag phase s (command n (fun s => (rule s).map (write s)) s) := by
  refine command_executes fun hn u hu => ?_
  cases hv : rule s with
  | error c => simp [hv, Except.map] at hu
  | ok a => simp only [hv, Except.map, Except.ok.injEq] at hu; exact hu ▸ h hn a hv

end

section
variable (s : State) (rd rs1 rs2 : CellIdx)

theorem rawOp2_executes {op : Config → Nat → Nat → Nat} (h : s.cfg.WF → ∀ x y, op s.cfg x y < s.cfg.p) :
    Executes false none s (rawOp2 op rd rs1 rs2 s) :=
  command_ok_executes fun hn => writes_setCell fun hs => ⟨dest_of_checks hn (.head _), h hs.1 _ _⟩

theorem rawOp1_executes {op : Config → Nat → Nat} (h : s.cfg.WF → ∀ x < s.cfg.p, op s.cfg x < s.cfg.p) :
    Executes false none s (rawOp1 op rd rs1 s) :=
  command_ok_executes fun hn => writes_setCell fun hs =>
    ⟨dest_of_checks hn (.head _), h hs.1 _ (rawCell_base_lt hs (source_of_checks hn (.head _)))⟩

theorem testOp1_executes (feature : Bool) (span : Nat × Nat) (test : State → Bool) :
    Executes true none s (testOp1 feature span test s) := command_ok_executes fun _ => .flag _ _

theorem testOp2_executes (feature : Bool) (span1 span2 : Nat × Nat) (test : State → Bool) :
    Executes true none s (testOp2 feature span1 span2 test s) := command_ok_executes fun _ => .flag _ _

theorem winOp_executes (feature : Bool) (tab : Vector (BitVec 32) 22) (kd ks : KIdx) :
    Executes false none s (winOp feature tab kd ks s) := command_ok_executes fun _ => .register _ _ _

section
variable {s} {α : Type} {feature : Bool} {K : Fld α} {ok : α → Prop} (hK : s.cfg.WF → CellFld s.cfg.p K ok)
include hK

theorem elemOp2_executes {op : α → α → α} (hop : s.cfg.WF → ∀ a b, ok (op a b)) :
    Executes false none s (elemOp2 feature K op rd rs1 rs2 s) :=
  command_ok_executes fun hn => writes_writeElem hK (dest_of_checks hn (.head _)) fun hs => hop hs.1 _ _

/-- The value rule may fault. -/
theorem elemOp1?_executes {op : α → Except FaultCode α}
    (hop : s.cfg.WF → ∀ a b, ok a → op a = .ok b → ok b) :
    Executes false none s (elemOp1? feature K op rd rs1 s) :=
  command_map_executes fun hn _ ha => writes_writeElem hK (dest_of_checks hn (.head _)) fun hs =>
    hop hs.1 _ _ (readElem_base_ok (hK hs.1) hs (source_of_checks hn (.head _))) ha

theorem elemOp1_executes {op : α → α} (hop : s.cfg.WF → ∀ a, ok a → ok (op a)) :
    Executes false none s (elemOp1 feature K op rd rs1 s) :=
  elemOp1?_executes rd rs1 hK fun hwf a _ ha hb => Except.ok.inj hb ▸ hop hwf a ha

theorem elemOpK_executes {op : α → Nat → α} (k : KIdx) (hop : s.cfg.WF → ∀ a e, ok a → ok (op a e)) :
    Executes false none s (elemOpK feature K op rd rs1 k s) :=
  command_ok_executes fun hn => writes_writeElem hK (dest_of_checks hn (.head _)) fun hs =>
    hop hs.1 _ _ (readElem_base_ok (hK hs.1) hs (source_of_checks hn (.head _)))

end

/-- In either kind of Fp6, and without one. -/
theorem onFp6_executes {flag : Bool} {phase : Option MLState}
    {run : {α : Type} → [DecidableEq α] → Fld α → Out}
    (h : ∀ {α : Type} [DecidableEq α] (K : Fld α) (ok : α → Prop),
      (s.cfg.WF → CellFld s.cfg.p K ok) → Executes flag phase s (run K)) :
    Executes flag phase s (onFp6 s run) := by
  unfold onFp6
  split
  · exact takeFault_executes _
  · exact h _ _ fun hwf => cellFld_fp6Over2 hwf _
  · exact h _ _ fun hwf => cellFld_fp6Over3 hwf _

section
variable {s} {α : Type} {E : Curve α} {ok : α → Prop} (hK : s.cfg.WF → CellFld s.cfg.p E.K ok)
include hK

theorem ptOp1_executes {op : Pt α → Pt α} (hop : s.cfg.WF → ∀ P, okPt ok P → okPt ok (op P)) :
    Executes false none s (ptOp1 E op rd rs1 s) :=
  command_ok_executes fun hn => writes_writePt hK (dest_of_checks hn (.head _)) fun hs =>
    hop hs.1 _ (readPt_ok (hK hs.1) hs (source_of_checks hn (.head _)))

theorem ptOp2_executes {op : Pt α → Pt α → Pt α}
    (hop : s.cfg.WF → ∀ P Q, okPt ok P → okPt ok Q → okPt ok (op P Q)) :
    Executes false none s (ptOp2 E op rd rs1 rs2 s) :=
  command_ok_executes fun hn => writes_writePt hK (dest_of_checks hn (.head _)) fun hs =>
    hop hs.1 _ _ (readPt_ok (hK hs.1) hs (source_of_checks hn (.head _)))
      (readPt_ok (hK hs.1) hs (source_of_checks hn (.tail _ (.head _))))

theorem ptOpMixed_executes {op : Pt α → Aff α → Pt α}
    (hop : s.cfg.WF → ∀ P Q, okPt ok P → ok Q.x → ok Q.y → okPt ok (op P Q)) :
    Executes false none s (ptOpMixed E op rd rs1 rs2 s) :=
  command_ok_executes fun hn => writes_writePt hK (dest_of_checks hn (.head _)) fun hs => by
    obtain ⟨hx, hy⟩ := readAff_ok (hK hs.1) hs (source_of_checks hn (.tail _ (.head _)))
    exact hop hs.1 _ _ (readPt_ok (hK hs.1) hs (source_of_checks hn (.head _))) hx hy

theorem ptOpAffine_executes [DecidableEq α] : Executes false none s (ptOpAffine E rd rs1 s) := by
  refine command_executes fun hn u hu => ?_
  dsimp only at hu
  split at hu
  · cases hu
  · cases hu
    exact writes_writeAff hK (dest_of_checks hn (.head _)) fun hs =>
      ⟨(hK hs.1).mul_ok _ _, (hK hs.1).mul_ok _ _⟩

theorem ptConst_executes {P : Pt α} (hP : s.cfg.WF → okPt ok P) :
    Executes false none s (ptConst E P rd s) :=
  command_ok_executes fun hn => writes_writePt hK (dest_of_checks hn (.head _)) fun hs => hP hs.1

theorem ptOpK_executes {op : Pt α → Nat → Pt α} (k : KIdx)
    (hop : s.cfg.WF → ∀ P n, okPt ok P → okPt ok (op P n)) :
    Executes false none s (ptOpK E op rd rs1 k s) :=
  command_ok_executes fun hn => writes_writePt hK (dest_of_checks hn (.head _)) fun hs =>
    hop hs.1 _ _ (readPt_ok (hK hs.1) hs (source_of_checks hn (.head _)))

end

theorem execPrecomp_executes (b : BankIdx) :
    Executes false (some .notStarted) s (execPrecomp b rs1 s) := by
  refine command_executes fun _ u hu => ?_
  dsimp only at hu
  split at hu
  · cases hu
  · cases hB : precompute s.cfg (readPt (fp2 s.cfg) s rs1.toNat) with
    | error c => simp [hB, Except.map] at hu
    | ok B =>
      simp only [hB, Except.map, Except.ok.injEq] at hu
      exact hu ▸ .bank s b B (precompute_recs_length hB)

theorem execMiller_executes (b : BankIdx) : Executes false (some .finished) s (execMiller rd rs1 b s) :=
  command_ok_executes fun hn => .miller s rd _ fun hs =>
    fitsBelowP_put12 hs (dest_of_checks hn (.head _)) (miller_ok hs.1 _)

theorem execMiller2_executes : Executes false (some .finished) s (execMiller2 rd rs1 rs2 s) :=
  command_ok_executes fun hn => .miller s rd _ fun hs =>
    fitsBelowP_put12 hs (dest_of_checks hn (.head _)) (miller_ok hs.1 _)

/-- PAIR and PAIRR: the Miller value, or what `post` makes of it (R328, R329). -/
theorem pairOp_executes {post : Config → F12 → Except FaultCode F12}
    (hpost : s.cfg.WF → ∀ a b, ok12 s.cfg a → post s.cfg a = .ok b → ok12 s.cfg b) :
    Executes false (some .finished) s (pairOp post rd rs1 rs2 s) := by
  refine command_executes fun hn u hu => ?_
  dsimp only at hu
  split at hu
  · cases hu
  · split at hu
    · cases hu
    · next B hB =>
      cases hf : post s.cfg (miller s.cfg
          [(ptToAffine (fp s.cfg) (readPt (fp s.cfg) s rs1.toNat), B.recs)]) with
      | error c => simp [hf, Except.map] at hu
      | ok f =>
        simp only [hf, Except.map, Except.ok.injEq] at hu
        exact hu ▸ .pair s B rd _ (precompute_recs_length hB) fun hs =>
          fitsBelowP_put12 hs (dest_of_checks hn (.head _)) (hpost hs.1 _ _ (miller_ok hs.1 _) hf)

end

/-! ### The meanings with a rule of their own -/

section
variable (s : State)

theorem execLdfe_executes (f : CellIdx) (addr : XAddr) : Executes false none s (execLdfe f addr s) :=
  command_map_executes fun hn _ hv => writes_setCell fun hs =>
    ⟨dest_of_checks hn (.head _), rep_lt hs.1 (loadBelowP_lt hv)⟩

theorem execLdraw_executes (f : CellIdx) (addr : XAddr) : Executes false none s (execLdraw f addr s) :=
  command_map_executes fun hn _ hv => writes_setCell fun _ =>
    ⟨dest_of_checks hn (.head _), loadBelowP_lt hv⟩

theorem execMov_executes (rd rs1 : CellIdx) (cnt : BitVec 7) :
    Executes false none s (execMov rd rs1 cnt s) :=
  command_ok_executes fun hn => .cells s rd _ fun hs => by
    refine ⟨by rw [rawCells_length]; exact dest_of_checks hn (.head _), fun v hv => ?_⟩
    obtain ⟨i, hi, rfl⟩ := mem_rawCells hv
    exact rawCell_lt hs (source_of_checks hn (.head _)) hi

theorem execZero_executes (rd : CellIdx) (cnt : BitVec 7) : Executes false none s (execZero rd cnt s) :=
  command_ok_executes fun hn => .cells s rd _ fun hs => by
    refine ⟨by rw [List.length_replicate]; exact dest_of_checks hn (.head _), fun v hv => ?_⟩
    rw [List.eq_of_mem_replicate hv]
    exact hs.1.1.pos

theorem execOne_executes (rd : CellIdx) : Executes false none s (execOne rd s) :=
  command_ok_executes fun hn => writes_setCell fun hs =>
    ⟨dest_of_checks hn (.head _), rep_lt hs.1 hs.1.1.one_lt⟩

end

/-! ### Every instruction -/

/-- Every instruction faults, or completes with the writes the operand table allows it: `T` and the phase as there,
and values in range into cells and banks. -/
theorem exec_executes (i : Instr) (s : State) :
    Executes (Spec.writesT i) (Spec.phaseAfter i) s (exec i s) := by
  have hmod : s.cfg.WF → ∀ x, x % s.cfg.p < s.cfg.p := fun h x => Nat.mod_lt x h.1.pos
  have h1 : s.cfg.WF → _ := cellFld_fp (c := s.cfg)
  have h2 : s.cfg.WF → _ := cellFld_fp2 (c := s.cfg)
  have h3 : s.cfg.WF → _ := cellFld_fp3 (c := s.cfg)
  have h12 : s.cfg.WF → _ := cellFld_fp12 (c := s.cfg)
  unfold exec
  cases i with
  | nop => exact command_ok_executes fun _ => .nothing s
  | ldfe f addr => exact execLdfe_executes s f addr
  | ldraw f addr => exact execLdraw_executes s f addr
  | stfe | straw | stk => exact command_executes fun _ _ => writes_xmemStore
  | ldk => exact command_map_executes fun _ _ _ => .register _ _ _
  | ldki => exact command_ok_executes fun _ => .register _ _ _
  | mov rd rs1 cnt => exact execMov_executes s rd rs1 cnt
  | zero rd cnt => exact execZero_executes s rd cnt
  | one rd => exact execOne_executes s rd
  | mmul | bmul => exact rawOp2_executes _ _ _ _ fun h _ _ => hmod h _
  | tomont | frommont => exact rawOp1_executes _ _ _ fun h _ _ => hmod h _
  | ffrob => exact rawOp1_executes _ _ _ fun _ _ hx => hx
  | fadd => exact elemOp2_executes _ _ _ h1 fun h => (h1 h).add_ok
  | fsub => exact elemOp2_executes _ _ _ h1 fun h => (h1 h).sub_ok
  | fmul => exact elemOp2_executes _ _ _ h1 fun h => (h1 h).mul_ok
  | fsqr => exact elemOp1_executes _ _ h1 fun h _ _ => (h1 h).mul_ok _ _
  | fneg => exact elemOp1_executes _ _ h1 fun h _ _ => (h1 h).neg_ok _
  | finv => exact elemOp1?_executes _ _ h1 fun h _ _ _ => invOrFault_ok (h1 h)
  | fpow => exact elemOpK_executes _ _ h1 _ fun h _ _ _ => (h1 h).pow_ok _ _
  | fsqrt => exact elemOp1?_executes _ _ h1 fun h _ _ _ => sqrtOrFault_lt h.1.pos
  | fisz | fissq | fsign | fbit | f2isz | f3isz | f12isz | pisid | piswf | qisid | qiswf =>
    exact testOp1_executes _ _ _ _
  | feq | flt | f2eq | f3eq | f12eq | peq | qeq => exact testOp2_executes _ _ _ _ _
  | f2add => exact elemOp2_executes _ _ _ h2 fun h => (h2 h).add_ok
  | f2sub => exact elemOp2_executes _ _ _ h2 fun h => (h2 h).sub_ok
  | f2mul => exact elemOp2_executes _ _ _ h2 fun h => (h2 h).mul_ok
  | f2sqr => exact elemOp1_executes _ _ h2 fun h _ _ => (h2 h).mul_ok _ _
  | f2neg => exact elemOp1_executes _ _ h2 fun h _ _ => (h2 h).neg_ok _
  | f2inv => exact elemOp1?_executes _ _ h2 fun h _ _ _ => invOrFault_ok (h2 h)
  | f2frob => exact elemOp1_executes _ _ h2 fun h => (h2 h).frob_ok _
  | f3add => exact elemOp2_executes _ _ _ h3 fun h => (h3 h).add_ok
  | f3sub => exact elemOp2_executes _ _ _ h3 fun h => (h3 h).sub_ok
  | f3mul => exact elemOp2_executes _ _ _ h3 fun h => (h3 h).mul_ok
  | f3sqr => exact elemOp1_executes _ _ h3 fun h _ _ => (h3 h).mul_ok _ _
  | f3neg => exact elemOp1_executes _ _ h3 fun h _ _ => (h3 h).neg_ok _
  | f3inv => exact elemOp1?_executes _ _ h3 fun h _ _ _ => invOrFault_ok (h3 h)
  | f3frob => exact elemOp1_executes _ _ h3 fun h => (h3 h).frob_ok _
  | f6add => exact onFp6_executes _ fun _ _ hK => elemOp2_executes _ _ _ hK fun h => (hK h).add_ok
  | f6sub => exact onFp6_executes _ fun _ _ hK => elemOp2_executes _ _ _ hK fun h => (hK h).sub_ok
  | f6mul => exact onFp6_executes _ fun _ _ hK => elemOp2_executes _ _ _ hK fun h => (hK h).mul_ok
  | f6sqr => exact onFp6_executes _ fun _ _ hK => elemOp1_executes _ _ hK fun h _ _ => (hK h).mul_ok _ _
  | f6neg => exact onFp6_executes _ fun _ _ hK => elemOp1_executes _ _ hK fun h _ _ => (hK h).neg_ok _
  | f6inv => exact onFp6_executes _ fun _ _ hK => elemOp1?_executes _ _ hK fun h _ _ _ => invOrFault_ok (hK h)
  | f6frob => exact onFp6_executes _ fun _ _ hK => elemOp1_executes _ _ hK fun h => (hK h).frob_ok _
  | f6isz => exact onFp6_executes _ fun _ _ _ => testOp1_executes _ _ _ _
  | f6eq => exact onFp6_executes _ fun _ _ _ => testOp2_executes _ _ _ _ _
  | f12add => exact elemOp2_executes _ _ _ h12 fun h => (h12 h).add_ok
  | f12sub => exact elemOp2_executes _ _ _ h12 fun h => (h12 h).sub_ok
  | f12mul => exact elemOp2_executes _ _ _ h12 fun h => (h12 h).mul_ok
  | f12sqr => exact elemOp1_executes _ _ h12 fun h _ _ => (h12 h).mul_ok _ _
  | f12neg => exact elemOp1_executes _ _ h12 fun h _ _ => (h12 h).neg_ok _
  | f12inv => exact elemOp1?_executes _ _ h12 fun h _ _ _ => invOrFault_ok (h12 h)
  | f12frob => exact elemOp1_executes _ _ h12 fun h => (h12 h).frob_ok _
  | f12uinv => exact elemOp1_executes _ _ h12 fun h _ => conj12_ok h
  | f12csqr => exact elemOp1_executes _ _ h12 fun h _ _ => cycSqr_ok h _
  | f12cexp => exact elemOpK_executes _ _ h12 _ fun h _ _ ha => cycExp_ok h ha _
  | fexpe => exact elemOp1?_executes _ _ h12 fun h _ _ _ => orInvZero_ok (easyPart_ok h _)
  | fexph => exact elemOp1_executes _ _ h12 fun h _ => hardPart_ok h
  | fexp => exact elemOp1?_executes _ _ h12 fun h _ _ _ => orInvZero_ok (finalExp_ok h _)
  | expz => exact elemOp1_executes _ _ h12 fun h _ => expZ_ok h
  | pdbl => exact ptOp1_executes _ _ (E := g1 s.cfg) h1 fun h _ => (h1 h).ptDbl_ok _
  | pneg => exact ptOp1_executes _ _ (E := g1 s.cfg) h1 fun h _ => (h1 h).ptNeg_ok
  | padd => exact ptOp2_executes _ _ _ (E := g1 s.cfg) h1 fun h _ _ => (h1 h).ptAdd_ok _
  | pmadd => exact ptOpMixed_executes _ _ _ (E := g1 s.cfg) h1 fun h _ _ => (h1 h).ptMadd_ok _
  | paff => exact ptOpAffine_executes _ _ (E := g1 s.cfg) h1
  | pzero => exact ptConst_executes _ (E := g1 s.cfg) h1 fun h => (h1 h).ptZero_ok
  | pone =>
    exact ptConst_executes _ (E := g1 s.cfg) h1 fun h => ⟨(gen_ok h).1.1, (gen_ok h).1.2, (h1 h).one_ok⟩
  | psmul => exact ptOpK_executes _ _ (E := g1 s.cfg) h1 _ fun h _ _ hP => (h1 h).smul_ok _ hP _
  | psmulw => exact ptOpK_executes _ _ (E := g1 s.cfg) h1 _ fun h _ _ hP => (h1 h).smulw_ok _ hP _ _
  | qdbl => exact ptOp1_executes _ _ (E := g2 s.cfg) h2 fun h _ => (h2 h).ptDbl_ok _
  | qneg => exact ptOp1_executes _ _ (E := g2 s.cfg) h2 fun h _ => (h2 h).ptNeg_ok
  | qadd => exact ptOp2_executes _ _ _ (E := g2 s.cfg) h2 fun h _ _ => (h2 h).ptAdd_ok _
  | qmadd => exact ptOpMixed_executes _ _ _ (E := g2 s.cfg) h2 fun h _ _ => (h2 h).ptMadd_ok _
  | qaff => exact ptOpAffine_executes _ _ (E := g2 s.cfg) h2
  | qzero => exact ptConst_executes _ (E := g2 s.cfg) h2 fun h => (h2 h).ptZero_ok
  | qone =>
    exact ptConst_executes _ (E := g2 s.cfg) h2 fun h => ⟨(gen_ok h).2.1, (gen_ok h).2.2, (h2 h).one_ok⟩
  | qsmul => exact ptOpK_executes _ _ (E := g2 s.cfg) h2 _ fun h _ _ hP => (h2 h).smul_ok _ hP _
  | qsmulw => exact ptOpK_executes _ _ (E := g2 s.cfg) h2 _ fun h _ _ hP => (h2 h).smulw_ok _ hP _ _
  | winsel1 | winsel2 => exact winOp_executes _ _ _ _ _
  | precomp bank rs1 => exact execPrecomp_executes s rs1 bank
  | miller rd rs1 bank => exact execMiller_executes s rd rs1 bank
  | miller2 rd rs1 rs2 => exact execMiller2_executes s rd rs1 rs2
  | pair rd rs1 rs2 => exact pairOp_executes s rd rs1 rs2 fun _ _ _ ha hb => Except.ok.inj hb ▸ ha
  | pairr rd rs1 rs2 => exact pairOp_executes s rd rs1 rs2 fun h _ _ _ => orInvZero_ok (finalExp_ok h _)

/-! ## The invariant (R51) -/

/-- Nothing in the invariant is about the schedule. -/
theorem Inv.withInputs {s : State} (h : Inv s) (es : List Event) : Inv { s with inputs := es } := h

theorem Inv.dataInv {s : State} (h : Inv s) : DataInv s := by
  obtain ⟨hc, hb, -, -, -, -, hm⟩ := h
  exact ⟨hc, hb, hm⟩

theorem faultCode_range (c : FaultCode) : 1 ≤ (faultCode c).toNat ∧ (faultCode c).toNat ≤ 9 := by
  cases c <;> decide

/-- Fault entry from any state with the invariant (R385). -/
theorem inv_takeFault {s : State} (h : Inv s) (c : FaultCode) : Inv (takeFault c s) := by
  obtain ⟨hc, hb, -, -, ⟨-, hprev⟩, hctrl, hm⟩ := h
  obtain ⟨hlo, hhi⟩ := faultCode_range c
  exact ⟨hc, hb, by simp [BusyClean], ⟨fun _ => ⟨hlo, hhi, rfl⟩, by simp⟩,
    ⟨fun hml => absurd hml hprev, hprev⟩, hctrl, hm⟩

/-! ### The phase of the accepted command (R45, R49) -/

theorem mbz_eq_ok {z : Bool} {i j : Instr} (h : mbz z i = .ok j) : j = i := by
  unfold mbz at h
  split at h
  · cases h; rfl
  · cases h

/-- A word whose opcode shows the running phase decodes to a command that ends it. -/
theorem phaseAfter_of_isMillerOpcode {w : Word} {i : Instr} (hd : decode w = .ok i)
    (hop : isMillerOpcode (w.extractLsb' 24 8) = true) : Spec.phaseAfter i = some .finished := by
  have hfields : (splitWord w).op = w.extractLsb' 24 8 := rfl
  unfold decode decodeFields at hd
  simp only [isMillerOpcode, Bool.or_eq_true, beq_iff_eq, or_assoc, ← hfields] at hop
  rcases hop with hop | hop | hop | hop <;> rw [hop] at hd <;> rw [mbz_eq_ok hd] <;> rfl

/-- Executing the accepted command keeps the invariant. -/
theorem inv_exec {s t : State} {i : Instr} (hwf : s.cfg.WF) (h : Inv s) (hbusy : s.busy = true)
    (hd : decode s.pend = .ok i) (he : exec i s = .next t) : Inv t := by
  obtain ⟨t', ho, hcases⟩ := exec_executes i s
  cases he.symm.trans ho
  obtain ⟨c, rfl⟩ | ⟨u, hw, rfl⟩ := hcases
  · exact inv_takeFault h c
  obtain ⟨hc, hb, hm⟩ := hw.dataInv hwf h.dataInv
  obtain ⟨-, -, hclean, ⟨-, hrec⟩, ⟨hrun, hprev⟩, hctrl, -⟩ := h
  obtain ⟨hbf, -, -, hctrl', hf, -, hfc, hfm, -, hprev', -, -⟩ := hw.completed
  have hnofault : s.fault = false := (hclean hbusy).1
  have hphase : (complete u).mlstate ≠ .accumulating := by
    rw [complete_mlstate, hw.mlstate_eq]
    cases hp : Spec.phaseAfter i with
    | some m => exact fun e => hw.phase_ne (by rw [hp]; exact congrArg some e)
    | none =>
      intro e
      have := phaseAfter_of_isMillerOpcode hd (hrun e).2
      rw [hp] at this
      cases this
  refine ⟨hc, hb, by simp [BusyClean], ⟨?_, fun _ => ?_⟩, ⟨fun e => absurd e hphase, by rwa [hprev']⟩,
    by rwa [CtrlReserved, hctrl'], hm⟩
  · rw [hf, hnofault]; exact fun e => absurd e Bool.false_ne_true
  · rw [hfc, hfm]; exact hrec hnofault

theorem inv_sequence {s t : State} (hwf : s.cfg.WF) (h : Inv s) (hs : sequence s = .next t) : Inv t := by
  unfold sequence at hs
  split at hs
  · next hbusy =>
    unfold execPending at hs
    split at hs
    · next i hd => exact inv_exec hwf h hbusy hd hs
    · cases hs; exact inv_takeFault h .illegal
  · cases hs; exact h

/-! ### The host port -/

/-- Both resets leave the state of R411 with some XMEM. -/
theorem inv_resetOf (c : Config) {m : List Host.Cell} (hm : memWf m = true) (d : Word) (es : List Event) :
    Inv { State.resetOf c with xmem := m, hrdata := d, inputs := es } := by
  refine ⟨fun i hi hv => ?_, fun b hb hv => ?_, ?_, ⟨?_, fun _ => ⟨rfl, rfl⟩⟩, ⟨?_, ?_⟩, ?_, hm⟩
  · simp [cellValid, State.resetOf, hi] at hv
  · simp [bankValid, State.resetOf] at hv
  · simp [BusyClean, State.resetOf]
  · simp [State.resetOf]
  · simp [State.resetOf]
  · simp [State.resetOf]
  · simp [CtrlReserved, State.resetOf]

theorem inv_softReset {s : State} (h : Inv s) : Inv (softReset s) :=
  inv_resetOf _ (memWf_softReset h.dataInv.2.2) _ _

theorem inv_hardReset (s : State) (cells : List Host.Cell) : Inv (hardReset s cells) :=
  inv_resetOf _ (memWf_hardReset s cells) _ _

theorem inv_ignoredWrite {s : State} (h : Inv s) : Inv (ignoredWrite s) := h

/-- Acceptance of a word by an idle core with no fault (R45). -/
theorem inv_accept {s : State} (h : Inv s) (hbusy : s.busy = false) (hf : s.fault = false) (w : Word) :
    Inv (accept s w) := by
  obtain ⟨hc, hb, -, hrec, ⟨hrun, -⟩, hctrl, hm⟩ := h
  have hidle : s.mlstate ≠ .accumulating := fun e => by simp [hbusy] at hrun; exact hrun e
  refine ⟨hc, hb, fun _ => ⟨hf, rfl⟩, ⟨fun e => ?_, hrec.2⟩, ⟨fun e => ⟨rfl, ?_⟩, hidle⟩, hctrl, hm⟩
  · rw [accept_fault, hf] at e; cases e
  · rw [accept_mlstate] at e
    split at e
    · next hop => exact hop
    · exact absurd e hidle

theorem inv_writeCtrl {s : State} (h : Inv s) (w : Word) : Inv (writeCtrl s w) := by
  unfold writeCtrl
  split
  · exact inv_softReset h
  · split
    · exact inv_ignoredWrite h
    · obtain ⟨hc, hb, hclean, hrec, hph, -, hm⟩ := h
      have hlow : (w &&& 7).toNat < 8 := by
        rw [BitVec.toNat_and]
        exact Nat.lt_succ_of_le Nat.and_le_right
      exact ⟨hc, hb, hclean, hrec, hph, hlow, hm⟩

theorem inv_writeStatus {s : State} (h : Inv s) (w : Word) : Inv (writeStatus s w) := by
  unfold writeStatus
  split
  · exact inv_ignoredWrite h
  · next hbusy =>
    obtain ⟨hc, hb, -, hrec, hph, hctrl, hm⟩ := h
    exact ⟨hc, hb, fun e => absurd e hbusy, hrec, hph, hctrl, hm⟩

theorem inv_writeCmd {s : State} (h : Inv s) (w : Word) : Inv (writeCmd s w) := by
  unfold writeCmd
  split
  · exact inv_ignoredWrite h
  · next hfree =>
    simp only [Bool.or_eq_true, not_or, Bool.not_eq_true] at hfree
    exact inv_accept h hfree.1 hfree.2 w

theorem inv_writeWindow {s : State} (h : Inv s) (haddr : BitVec 11) (w : Word) :
    Inv (writeWindow s (windowAddr haddr) w) := by
  have hm' := memWf_writeWindow h.dataInv.2.2 haddr w
  unfold writeWindow at hm' ⊢
  split
  · exact inv_ignoredWrite h
  · next hbusy =>
    rw [if_neg hbusy] at hm'
    obtain ⟨hc, hb, hclean, hrec, hph, hctrl, -⟩ := h
    exact ⟨hc, hb, hclean, hrec, hph, hctrl, hm'⟩

theorem inv_writeReadOnly {s : State} (h : Inv s) : Inv (writeReadOnly s) := by
  unfold writeReadOnly
  split
  · exact inv_ignoredWrite h
  · exact h

theorem inv_hostWrite {s : State} (h : Inv s) (haddr : BitVec 11) (w : Word) : Inv (hostWrite s haddr w) := by
  unfold hostWrite
  split
  · exact inv_writeWindow h haddr w
  · split
    · exact inv_writeCtrl h w
    · exact inv_writeStatus h w
    · exact inv_writeCmd h w
    · exact inv_writeReadOnly h
    · exact inv_writeReadOnly h
    · exact inv_writeReadOnly h
    · exact inv_writeReadOnly h
    · exact h

/-- Every event keeps the invariant (R391). -/
theorem inv_handle {s t : State} (hwf : s.cfg.WF) (h : Inv s) (e : Event) (ht : handle e s = .next t) :
    Inv t := by
  cases e with
  | sequencer => exact inv_sequence hwf h ht
  | hostRead haddr => cases ht; exact h
  | hostWrite haddr w => cases ht; exact inv_hostWrite h haddr w
  | hardReset cells => cases ht; exact inv_hardReset s cells

/-- Settles O9: every event keeps the invariant, and a step that answers is the next event's. -/
theorem stepKeepsInvariant : Obligations.StepKeepsInvariant := by
  intro s t h hstep
  by_cases hcheck : s.cfg.wfCheck = true
  · have hwf : s.cfg.WF := s.cfg.wf_iff.2 hcheck
    rw [step, if_pos hcheck, nextEvent] at hstep
    split at hstep
    · exact inv_sequence hwf h hstep
    · next e es _ => exact inv_handle (s := { s with inputs := es }) hwf (h.withInputs es) e hstep
  · cases (step_refused hcheck).symm.trans hstep

/-! ## The test flag (R28) -/

/-- TOY-BN has every unit; every cell is valid. -/
def allValid : State := { State.resetOf toyBN with fv := Vector.replicate 128 true }

/-- The spans a command reads, as its checks see them. -/
def readSpans (i : Instr) : List (Nat × Nat) := (Spec.operands i).reads.map fun sp => (sp.1.toNat, sp.2)

theorem checkNeeds_allValid {i : Instr} (hfit : Spec.SpansFit i) (b : Bool) :
    checkNeeds { src := readSpans i } (setT allValid b) = none := by
  have hspan : ∀ sp ∈ readSpans i, sp.1 + sp.2 ≤ 128 := by
    simp only [readSpans, List.forall_mem_map]
    exact fun sp hsp => hfit sp (List.mem_append_right _ hsp)
  have hvalid : ∀ j < 128, cellValid (setT allValid b) j = true := fun j hj => by
    simp [allValid, cellValid, hj]
  refine (checkNeeds_none_iff _ _).2 ⟨rfl, hspan, (sourcesValid_iff _ _).2 ⟨fun sp hsp j hj => ?_, ?_, ?_⟩⟩
  · have := hspan sp hsp
    exact hvalid _ (by omega)
  · exact List.forall_mem_nil _
  · exact List.forall_mem_nil _

/-- A test that does not look at `T` changes it when `T` holds the other answer. -/
theorem changesT {i : Instr} (test : State → Bool) (hfit : Spec.SpansFit i)
    (hi : ∀ b, exec i (setT allValid b) =
      command { src := readSpans i } (fun s => .ok (setT s (test s))) (setT allValid b))
    (htest : ∀ b, test (setT allValid b) = test allValid) :
    ∃ s t : State, exec i s = .next t ∧ t.t ≠ s.t := by
  refine ⟨setT allValid (!test allValid), _,
    (hi _).trans (command_ok (checkNeeds_allValid hfit _) rfl), ?_⟩
  rw [complete_t, setT_t, setT_t, htest]
  simp

/-- Each of the twenty tests, by its answer. -/
theorem changesT_of_writesT {i : Instr} (hT : Spec.writesT i = true) (hfit : Spec.SpansFit i) :
    ∃ s t : State, exec i s = .next t ∧ t.t ≠ s.t := by
  have isZero {α : Type} [DecidableEq α] (K : Fld α) (b : CellIdx) :
      ∀ v, elemIsZero K b (setT allValid v) = elemIsZero K b allValid := fun _ => rfl
  have isEq {α : Type} [DecidableEq α] (K : Fld α) (b d : CellIdx) :
      ∀ v, elemEq K b d (setT allValid v) = elemEq K b d allValid := fun _ => rfl
  cases i with
  | fisz b => exact changesT (fun s => rawCell s b.toNat == 0) hfit (fun _ => rfl) fun _ => rfl
  | feq b d =>
    exact changesT (fun s => rawCell s b.toNat == rawCell s d.toNat) hfit (fun _ => rfl) fun _ => rfl
  | flt b d =>
    exact changesT (fun s => decide (canon s b.toNat < canon s d.toNat)) hfit (fun _ => rfl) fun _ => rfl
  | fissq b =>
    exact changesT (fun s => powMod s.cfg.p (canon s b.toNat) (euler s.cfg) == 1) hfit (fun _ => rfl)
      fun _ => rfl
  | fsign b =>
    exact changesT (fun s => decide (euler s.cfg < canon s b.toNat)) hfit (fun _ => rfl) fun _ => rfl
  | fbit b n => exact changesT (fun s => (canon s b.toNat).testBit n.toNat) hfit (fun _ => rfl) fun _ => rfl
  | f2isz b => exact changesT (elemIsZero (fp2 toyBN) b) hfit (fun _ => rfl) (isZero _ b)
  | f2eq b d => exact changesT (elemEq (fp2 toyBN) b d) hfit (fun _ => rfl) (isEq _ b d)
  | f3isz b => exact changesT (elemIsZero (fp3 toyBN) b) hfit (fun _ => rfl) (isZero _ b)
  | f3eq b d => exact changesT (elemEq (fp3 toyBN) b d) hfit (fun _ => rfl) (isEq _ b d)
  | f6isz b => exact changesT (elemIsZero (fp6Over2 toyBN ⟨2, 1⟩) b) hfit (fun _ => rfl) (isZero _ b)
  | f6eq b d => exact changesT (elemEq (fp6Over2 toyBN ⟨2, 1⟩) b d) hfit (fun _ => rfl) (isEq _ b d)
  | f12isz b => exact changesT (elemIsZero (fp12 toyBN) b) hfit (fun _ => rfl) (isZero _ b)
  | f12eq b d => exact changesT (elemEq (fp12 toyBN) b d) hfit (fun _ => rfl) (isEq _ b d)
  | pisid b => exact changesT (fun s => rawCell s (b.toNat + 2) == 0) hfit (fun _ => rfl) fun _ => rfl
  | peq b d =>
    exact changesT (fun s => ptEq (fp toyBN) (readPt (fp toyBN) s b.toNat) (readPt (fp toyBN) s d.toNat))
      hfit (fun _ => rfl) fun _ => rfl
  | piswf b =>
    exact changesT (fun s => ptIsWF (fp toyBN) toyBN.curveA toyBN.curveB (readPt (fp toyBN) s b.toNat))
      hfit (fun _ => rfl) fun _ => rfl
  | qisid b =>
    exact changesT (fun s => rawCell s (b.toNat + 4) == 0 && rawCell s (b.toNat + 5) == 0) hfit
      (fun _ => rfl) fun _ => rfl
  | qeq b d =>
    exact changesT (fun s => ptEq (fp2 toyBN) (readPt (fp2 toyBN) s b.toNat) (readPt (fp2 toyBN) s d.toNat))
      hfit (fun _ => rfl) fun _ => rfl
  | qiswf b =>
    exact changesT (fun s => ptIsWF (fp2 toyBN) (fp2 toyBN).zero (twistB toyBN) (readPt (fp2 toyBN) s b.toNat))
      hfit (fun _ => rfl) fun _ => rfl
  | _ => cases hT

/-- A command that is no test leaves `T` alone, whether it faults or completes. -/
theorem exec_t_eq {s t : State} {i : Instr} (he : exec i s = .next t) (hT : Spec.writesT i = false) :
    t.t = s.t := by
  obtain ⟨t', ho, hcases⟩ := exec_executes i s
  cases he.symm.trans ho
  obtain ⟨c, rfl⟩ | ⟨u, hw, rfl⟩ := hcases
  · rfl
  · rw [hT] at hw
    exact hw.t_eq

/-- Fault entry leaves `T` alone; a command that completes enters no fault. -/
theorem exec_fault_t_eq {s t : State} {i : Instr} (he : exec i s = .next t) (hs : s.fault = false)
    (ht : t.fault = true) : t.t = s.t := by
  obtain ⟨t', ho, ⟨c, rfl⟩ | ⟨-, -, -, -, hfault, -⟩⟩ := exec_faultsOrCompletes i s
  · cases he.symm.trans ho
    rfl
  · cases he.symm.trans ho
    rw [hfault, hs] at ht
    cases ht

/-- Settles O14: each test by its answer in a state of valid cells, the rest by what a command can write. -/
theorem testFlagWriters : Obligations.TestFlagWriters :=
  ⟨fun _ hT hfit => changesT_of_writesT hT hfit, fun _ _ _ he hT => exec_t_eq he hT,
    fun _ _ _ he hs ht => exec_fault_t_eq he hs ht⟩

/-! ## The next step, by the event that is next (R391) -/

section
variable {s : State} {es : List Event} (hcheck : s.cfg.wfCheck = true)
include hcheck

theorem step_of_inputs {e : Event} (h : s.inputs = e :: es) : step s = handle e { s with inputs := es } := by
  rw [step, if_pos hcheck, nextEvent, h]

theorem step_of_no_inputs (h : s.inputs = []) : step s = sequence s := by
  rw [step, if_pos hcheck, nextEvent, h]

theorem step_hostRead {a : BitVec 11} (h : s.inputs = .hostRead a :: es) :
    step s = .next (hostRead { s with inputs := es } a) := step_of_inputs hcheck h

theorem step_hostWrite {a : BitVec 11} {w : Word} (h : s.inputs = .hostWrite a w :: es) :
    step s = .next (hostWrite { s with inputs := es } a w) := step_of_inputs hcheck h

end

theorem sequence_busy {s : State} {i : Instr} (hb : s.busy = true) (hd : decode s.pend = .ok i) :
    sequence s = exec i s := by
  rw [sequence, if_pos hb, execPending, hd]

/-! ## The registers a host write names (R43 to R45) -/

theorem hostWrite_ctrl (s : State) (w : Word) : hostWrite s 2 w = writeCtrl s w := rfl

theorem hostWrite_status (s : State) (w : Word) : hostWrite s 3 w = writeStatus s w := rfl

theorem hostWrite_cmd (s : State) (w : Word) : hostWrite s 4 w = writeCmd s w := rfl

/-- ID, CAP, FCODE and FCMD (R41, R42, R46, R47). -/
theorem hostWrite_readOnly (s : State) {a : BitVec 11} (ha : a ∈ ([0, 1, 5, 6] : List (BitVec 11)))
    (w : Word) : hostWrite s a w = writeReadOnly s := by
  simp only [List.mem_cons, List.not_mem_nil, or_false] at ha
  rcases ha with rfl | rfl | rfl | rfl <;> rfl

/-! ## Acceptance (R45, R49) -/

theorem isMillerOpcode_iff (op : BitVec 8) :
    isMillerOpcode op = true ↔ op ∈ ([0x91, 0x92, 0x97, 0x98] : List (BitVec 8)) := by
  simp [isMillerOpcode, or_assoc]

/-- A write to CMD of an idle core with no fault accepts the word. -/
theorem hostWrite_cmd_accepts {s : State} (hb : s.busy = false) (hf : s.fault = false) (w : Word) :
    hostWrite s 4 w = accept s w := by
  rw [hostWrite_cmd, writeCmd, if_neg (by simp [hb, hf])]

/-- The word is pending after its acceptance, and the sequencer's next step executes its command. -/
theorem step_pending {u : State} {w : Word} {es : List Event} (hcheck : u.cfg.wfCheck = true)
    (hb : u.busy = true) (hp : u.pend = w) (hin : u.inputs = es) {i : Instr} (hd : decode w = .ok i) :
    (es = [] → step u = exec i u) ∧
      (∀ es', es = .sequencer :: es' → step u = exec i { u with inputs := es' }) := by
  subst hp
  refine ⟨fun h => ?_, fun es' h => ?_⟩
  · rw [step_of_no_inputs hcheck (hin.trans h), sequence_busy hb hd]
  · rw [step_of_inputs hcheck (hin.trans h)]
    exact sequence_busy hb hd

/-- Settles O7: the write accepts the word, and the state it leaves is busy with it. -/
theorem acceptedCommandRuns : Obligations.AcceptedCommandRuns := by
  intro s w es hcheck hb hf hin
  refine ⟨_, rfl, ?_, fun i hd => ?_⟩
  · rw [step_hostWrite hcheck hin, hostWrite_cmd_accepts (s := { s with inputs := es }) hb hf]
    simp only [accept, isMillerOpcode_iff]
  · apply step_pending
    case hd => exact hd
    case hcheck => exact hcheck
    all_goals rfl

/-- Settles O22: the level, cause by cause. -/
theorem interruptLevel : Obligations.InterruptLevel := by
  intro s
  simp only [irq, ieDone, ieFault, Bool.or_eq_true, Bool.and_eq_true]

/-! ## Offsets of the port (R40, R61) -/

/-- The window is what bit 12 of the byte offset says: the upper half of the words. -/
theorem inWindow_iff (a : BitVec 11) : inWindow a = true ↔ 1024 ≤ a.toNat := by
  rw [inWindow, BitVec.getLsbD, Nat.testBit_eq_decide_div_mod_eq, decide_eq_true_iff]
  have := a.isLt
  omega

theorem windowAddr_eq {a : BitVec 11} (h : 1024 ≤ a.toNat) : windowAddr a = 4 * (a.toNat - 1024) := by
  have := a.isLt
  simp only [windowAddr, BitVec.extractLsb'_toNat, Nat.shiftRight_zero]
  omega

/-! ## Host writes to the registers (R41 to R48, R391) -/

section
variable {s : State}

theorem hostWrite_reserved {a : BitVec 11} (hlo : 7 ≤ a.toNat) (hhi : a.toNat < 1024) (w : Word) :
    hostWrite s a w = s := by
  rw [hostWrite, if_neg (by rw [inWindow_iff]; omega)]
  split
  case h_8 => rfl
  all_goals omega

/-- While BUSY a write to any register but the soft reset is ignored, with HOSTERR (R391). -/
theorem hostWrite_register_busy (hb : s.busy = true) {a : BitVec 11} (ha : a.toNat < 7) {w : Word}
    (hw : a = 2 → w.getLsbD 31 = false) : hostWrite s a w = ignoredWrite s := by
  rw [hostWrite_busy hb, if_neg (fun h => Bool.false_ne_true ((hw h.1).symm.trans h.2)),
    if_neg (by omega)]

/-- In the fault state too a write to CMD is ignored, with HOSTERR (R386). -/
theorem hostWrite_cmd_ignored (h : s.busy = true ∨ s.fault = true) (w : Word) :
    hostWrite s 4 w = ignoredWrite s := by
  rw [hostWrite_cmd, writeCmd, if_pos (by simpa using h)]

/-- A write to CTRL that is no soft reset takes bits 2:0 of the word (R43). -/
theorem hostWrite_ctrl_idle (hb : s.busy = false) {w : Word} (hw : w.getLsbD 31 = false) :
    hostWrite s 2 w = { s with ctrl := w &&& 7 } := by
  rw [hostWrite_ctrl, writeCtrl, if_neg (by rw [hw]; decide), if_neg (by simp [hb])]

/-- A write to STATUS clears DONE and HOSTERR where its bits 1 and 4 are set (R44). -/
theorem hostWrite_status_idle (hb : s.busy = false) (w : Word) :
    hostWrite s 3 w =
      { s with done := s.done && !w.getLsbD 1, hosterr := s.hosterr && !w.getLsbD 4 } := by
  rw [hostWrite_status, writeStatus, if_neg (by simp [hb])]

theorem hostWrite_readOnly_idle (hb : s.busy = false) {a : BitVec 11}
    (ha : a ∈ ([0, 1, 5, 6] : List (BitVec 11))) (w : Word) : hostWrite s a w = s := by
  rw [hostWrite_readOnly s ha, writeReadOnly, if_neg (by simp [hb])]

end

theorem getLsbD_and_seven (w : Word) {i : Nat} (hi : i < 32) :
    (w &&& 7).getLsbD i = (decide (i < 3) && w.getLsbD i) := by
  have h7 : (7 : Word).getLsbD i = decide (i < 3) := by
    interval_cases i <;> rfl
  rw [BitVec.getLsbD_and, h7, Bool.and_comm]

/-- Settles O17: the write is the next event, and each register answers it by its own rule. -/
theorem hostRegisterWrites : Obligations.HostRegisterWrites := by
  intro s w es hcheck
  have write {a : BitVec 11} {t : State} (hin : s.inputs = .hostWrite a w :: es)
      (ht : hostWrite { s with inputs := es } a w = t) : step s = .next t :=
    ht ▸ step_hostWrite hcheck hin
  refine ⟨fun hin hw => ⟨fun hb => ?_, fun hb => ⟨w &&& 7, ?_, fun i hi => getLsbD_and_seven w hi⟩⟩,
    fun hin => ⟨fun hb => ?_, fun hb => ?_⟩, fun hin hbf => ?_, fun a ha hin => ⟨fun hb => ?_, fun hb => ?_⟩,
    fun a hlo hhi hin => ?_⟩
  · exact write hin (hostWrite_register_busy (s := { s with inputs := es }) hb (by decide) fun _ => hw)
  · exact write hin (hostWrite_ctrl_idle (s := { s with inputs := es }) hb hw)
  · exact write hin (hostWrite_register_busy (s := { s with inputs := es }) hb (by decide) (by simp))
  · exact write hin (hostWrite_status_idle (s := { s with inputs := es }) hb w)
  · exact write hin (hostWrite_cmd_ignored (s := { s with inputs := es }) hbf w)
  · have hlow : a.toNat < 7 ∧ a ≠ 2 := by
      simp only [List.mem_cons, List.not_mem_nil, or_false] at ha
      rcases ha with rfl | rfl | rfl | rfl <;> decide
    exact write hin (hostWrite_register_busy (s := { s with inputs := es }) hb hlow.1 fun h => absurd h hlow.2)
  · exact write hin (hostWrite_readOnly_idle (s := { s with inputs := es }) hb ha w)
  · exact write hin (hostWrite_reserved (s := { s with inputs := es }) hlo hhi w)

/-! ## Host reads (R41 to R48, R66) -/

theorem extractLsb'_eq_of_bits {d : Word} {start n : Nat} {v : BitVec n}
    (h : ∀ i < n, d.getLsbD (start + i) = v.getLsbD i) : d.extractLsb' start n = v :=
  BitVec.eq_of_getLsbD_eq fun i hi => by rw [BitVec.getLsbD_extractLsb', h i hi]; simp [hi]

theorem getLsbD_flagBit (b : Bool) (i : Nat) {j : Nat} (hj : j < 32) :
    (flagBit b i).getLsbD j = (b && decide (j = i)) := by
  cases b
  · simp [flagBit]
  · change (BitVec.ofNat 32 (1 <<< i)).getLsbD j = _
    rw [BitVec.getLsbD_ofNat, Nat.shiftLeft_eq, one_mul, Nat.testBit_two_pow]
    simp [hj, eq_comm]

/-- The bits of STATUS (R44). -/
theorem getLsbD_statusWord (s : State) {j : Nat} (hj : j < 32) :
    (statusWord s).getLsbD j = ((s.busy && decide (j = 0)) || (s.done && decide (j = 1)) ||
      (s.fault && decide (j = 2)) || (s.t && decide (j = 3)) || (s.hosterr && decide (j = 4)) ||
      (decide (5 ≤ j) && (mlCode s.mlstate).getLsbD (j - 5)) || (bankValid s 0 && decide (j = 7)) ||
      (bankValid s 1 && decide (j = 8))) := by
  have hsub : j - 5 < 32 := by omega
  simp only [statusWord, BitVec.getLsbD_or, getLsbD_flagBit _ _ hj, BitVec.getLsbD_shiftLeft,
    BitVec.getLsbD_setWidth, hj, hsub, decide_true, Bool.true_and, ← decide_not, Nat.not_lt]

/-- F6KIND takes two bits (R42). -/
theorem getLsbD_f6KindCode_high (c : Config) {k : Nat} (hk : 2 ≤ k) : (f6KindCode c).getLsbD k = false := by
  have hlt : (f6KindCode c).toNat < 2 ^ 2 := by
    unfold f6KindCode
    split <;> decide
  exact Nat.testBit_lt_two_pow (hlt.trans_le (Nat.pow_le_pow_right Nat.two_pos hk))

/-- The bits of CAP (R42). -/
theorem getLsbD_capWord (c : Config) {j : Nat} (hj : j < 32) :
    (capWord c).getLsbD j = ((decide (j < 10) && c.modbits.testBit j) ||
      (decide (c.redmode = .mont) && decide (j = 10)) || (c.hasFp2 && decide (j = 11)) ||
      (c.hasFp3 && decide (j = 12)) || (decide (13 ≤ j ∧ j < 15) && (f6KindCode c).getLsbD (j - 13)) ||
      (c.hasFp12 && decide (j = 15)) || (c.hasG2 && decide (j = 16)) || (c.hasPair && decide (j = 17)) ||
      (c.loopneg && decide (j = 18)) || (c.zneg && decide (j = 19)) ||
      (decide (c.curveA = 0) && decide (j = 20))) := by
  have hf6 : (decide (13 ≤ j ∧ j < 15) && (f6KindCode c).getLsbD (j - 13)) =
      (decide (13 ≤ j) && (f6KindCode c).getLsbD (j - 13)) := by
    by_cases h15 : j < 15
    · simp [h15]
    · simp [h15, getLsbD_f6KindCode_high c (show 2 ≤ j - 13 by omega)]
  simp only [hf6, capWord, BitVec.getLsbD_or, getLsbD_flagBit _ _ hj, BitVec.getLsbD_shiftLeft,
    BitVec.getLsbD_setWidth, BitVec.getLsbD_ofNat, hj, decide_true, Bool.true_and, ← decide_not, Nat.not_lt,
    beq_eq_decide]

theorem hostReadWord_reserved (s : State) {a : BitVec 11} (hlo : 7 ≤ a.toNat) (hhi : a.toNat < 1024) :
    hostReadWord s a = 0 := by
  rw [hostReadWord, if_neg (by rw [inWindow_iff]; omega)]
  split
  case h_7 => rfl
  all_goals omega

theorem toNat_append_byte {n : Nat} (x : BitVec n) (b : Byte) : (x ++ b).toNat = 256 * x.toNat + b.toNat := by
  rw [BitVec.toNat_append, ← Nat.shiftLeft_add_eq_or_of_lt b.isLt, Nat.shiftLeft_eq]
  omega

/-- Byte lane 0 is the lowest address (R66). -/
theorem xmemWord_toNat (m : List Host.Cell) (a : Nat) :
    (xmemWord m a).toNat = (memRead m a).toNat + 256 * (memRead m (a + 1)).toNat +
      65536 * (memRead m (a + 2)).toNat + 16777216 * (memRead m (a + 3)).toNat := by
  simp only [xmemWord, toNat_append_byte]
  omega

theorem hostReadWord_window (s : State) {a : BitVec 11} (h : 1024 ≤ a.toNat) :
    hostReadWord s a = xmemWord s.xmem (4 * (a.toNat - 1024)) := by
  rw [hostReadWord, if_pos ((inWindow_iff a).2 h), windowAddr_eq h]

theorem capWord_modbits {c : Config} (h : c.modbits < 1024) :
    ((capWord c).extractLsb' 0 10).toNat = c.modbits := by
  have hbits : (capWord c).extractLsb' 0 10 = BitVec.ofNat 10 c.modbits := by
    refine extractLsb'_eq_of_bits fun i hi => ?_
    rw [getLsbD_capWord c (by omega), BitVec.getLsbD_ofNat]
    simp (disch := omega) only [decide_eq_false, Nat.zero_add, Bool.and_false, Bool.false_and, Bool.or_false]
  rw [hbits, BitVec.toNat_ofNat, Nat.mod_eq_of_lt h]

theorem capWord_f6 (c : Config) : (capWord c).extractLsb' 13 2 = (f6KindCode c).setWidth 2 := by
  refine extractLsb'_eq_of_bits fun i hi => ?_
  rw [getLsbD_capWord c (by omega), BitVec.getLsbD_setWidth]
  interval_cases i <;> simp

theorem capWord_high (c : Config) : (capWord c).extractLsb' 21 11 = 0 := by
  refine extractLsb'_eq_of_bits fun i hi => ?_
  rw [getLsbD_capWord c (by omega), BitVec.ofNat_eq_ofNat, BitVec.getLsbD_zero]
  simp (disch := omega) only [decide_eq_false, Bool.and_false, Bool.false_and, Bool.or_false]

theorem statusWord_phase (s : State) : (statusWord s).extractLsb' 5 2 = mlCode s.mlstate := by
  refine extractLsb'_eq_of_bits fun i hi => ?_
  rw [getLsbD_statusWord s (by omega)]
  interval_cases i <;> simp

theorem statusWord_high (s : State) : (statusWord s).extractLsb' 9 23 = 0 := by
  refine extractLsb'_eq_of_bits fun i hi => ?_
  rw [getLsbD_statusWord s (by omega), BitVec.getLsbD_of_ge (mlCode s.mlstate) _ (by omega),
    show (0 : BitVec 23).getLsbD i = false from BitVec.getLsbD_zero]
  simp (disch := omega) only [decide_eq_false, Bool.and_false, Bool.or_false]

/-! ### Which register an offset reads -/

theorem hostReadWord_cap (s : State) : hostReadWord s 1 = capWord s.cfg := rfl

theorem hostReadWord_status (s : State) : hostReadWord s 3 = statusWord s := rfl

theorem hostReadWord_fcode (s : State) : hostReadWord s 5 = fcodeWord s := rfl

/-- Settles O16: the read is the next event, and each register is read field by field. -/
theorem hostReads : Obligations.HostReads := by
  intro s a es hcheck hin
  refine ⟨hostReadWord s a, step_hostRead hcheck hin, fun h => ?id, fun h => ?cap, fun h => ?ctrl,
    fun h => ?status, fun h => ?cmd, fun h => ?fcode, fun h => ?fcmd,
    fun hlo hhi => hostReadWord_reserved s hlo hhi, fun hw => ?window⟩
  case id => rw [h]; rfl
  case cap =>
    rw [h, hostReadWord_cap]
    have hmod : s.cfg.modbits < 1024 := by
      obtain ⟨-, -, -, -, hle, -⟩ := modulus_facts hcheck
      omega
    have bit {j : Nat} (hj : j < 32) := getLsbD_capWord s.cfg hj
    refine ⟨capWord_modbits hmod, ?_, ?_, ?_, fun h6 => by simp [capWord_f6, f6KindCode, h6],
      fun n h6 => by simp [capWord_f6, f6KindCode, h6], fun n h6 => by simp [capWord_f6, f6KindCode, h6],
      ?_, ?_, ?_, ?_, ?_, ?_, capWord_high _⟩
    all_goals
      rw [bit (by decide)]
      simp
  case ctrl => rw [h]; rfl
  case status =>
    rw [h, hostReadWord_status, statusWord_phase]
    have bit {j : Nat} (hj : j < 32) := getLsbD_statusWord s hj
    refine ⟨?_, ?_, ?_, ?_, ?_, fun hm => by simp [mlCode, hm], fun hm => by simp [mlCode, hm],
      fun hm => by simp [mlCode, hm], ?_, ?_, statusWord_high s⟩
    all_goals
      rw [bit (by decide)]
      simp
  case cmd => rw [h]; rfl
  case fcode =>
    rw [h, hostReadWord_fcode]
    refine ⟨extractLsb'_eq_of_bits fun i hi => ?_, extractLsb'_eq_of_bits fun i hi => ?_⟩
    · simp [fcodeWord, show i < 32 by omega]
    · rw [fcodeWord, BitVec.getLsbD_setWidth, BitVec.getLsbD_of_ge s.fcode _ (by omega)]
      simp
  case fcmd => rw [h]; rfl
  case window => rw [hostReadWord_window s hw, xmemWord_toNat]

end Sys2Proof.Machine

/-! PROOFS. The memory (20_memory.md): the host's window on XMEM, and what every command leaves alone. -/

namespace Sys2Proof.Machine

/-! ## Host writes to the window (R66, R386) -/

theorem hostWrite_window (s : State) {a : BitVec 11} (h : 1024 ≤ a.toNat) (w : Word) :
    hostWrite s a w = writeWindow s (4 * (a.toNat - 1024)) w := by
  rw [hostWrite, if_pos ((inWindow_iff a).2 h), windowAddr_eq h]

/-- Byte lane `i` holds the bits from `8 * i` (R66). -/
theorem wordBytes_getD (w : Word) {i : Nat} (hi : i < 4) :
    (wordBytes w).getD i 0 = w.extractLsb' (8 * i) 8 := by
  interval_cases i <;> rfl

/-- Settles O18: the window is inside XMEM, so the bytes of the word are read back at their addresses. -/
theorem windowWrites : Obligations.WindowWrites := by
  intro s a w es hcheck hm ha hin
  have hstep : step s = .next (writeWindow { s with inputs := es } (4 * (a.toNat - 1024)) w) := by
    rw [step_hostWrite hcheck hin, hostWrite_window _ ha]
  have hfit : 4 * (a.toNat - 1024) + (wordBytes w).length ≤ Config.xbytes := by
    have := a.isLt
    simp only [wordBytes_length, Config.xbytes]
    omega
  refine ⟨fun hb => ?_, fun hb => ⟨memWriteList s.xmem (4 * (a.toNat - 1024)) (wordBytes w), ?_,
    fun i hi => ?_, fun x hx => memRead_memWriteList_outside _ _ _ hx⟩⟩
  · rw [hstep, writeWindow, if_pos hb, ignoredWrite]
  · rw [hstep, writeWindow, if_neg (by simp [hb])]
  · rw [memRead_memWriteList hm hfit, wordBytes_length, if_pos (by omega), Nat.add_sub_cancel_left,
      wordBytes_getD w hi]

/-! ## What a completed command leaves alone (R16, R20, R24) -/

/-- Where a command may write: spans of cells, an integer register, a bank, bytes of XMEM (an address and a count),
`T`, and the phase it ends in when it has one. -/
structure Footprint where
  cells : List (CellIdx × Nat) := []
  reg : Option KIdx := none
  bank : Option BankIdx := none
  bytes : Option (Nat × Nat) := none
  flag : Bool := false
  phase : Option MLState := none

/-- The footprint that the operand table gives a command; of the six transfers only the stores write XMEM. -/
def footprint (c : Config) (i : Instr) : Footprint where
  cells := (Spec.operands i).writes
  reg := Spec.writesK i
  bank := Spec.writesCM i
  bytes := if Spec.writesX i then Spec.transfers c i else none
  flag := Spec.writesT i
  phase := Spec.phaseAfter i

/-- The rule of a command turns `s` into `u`, changes nothing outside `w`, and what it writes becomes valid. -/
structure WritesWithin (w : Footprint) (s u : State) : Prop where
  completed : Completed s (complete u)
  other_cells : ∀ j < 128, (∀ sp ∈ w.cells, ¬(sp.1.toNat ≤ j ∧ j < sp.1.toNat + sp.2)) →
    rawCell u j = rawCell s j ∧ cellValid u j = cellValid s j
  cells_valid : ∀ sp ∈ w.cells, ∀ j < sp.2, cellValid u (sp.1.toNat + j) = true
  other_regs : ∀ r, w.reg ≠ some r → kReg u r = kReg s r ∧ kValid u r = kValid s r
  reg_valid : ∀ r, w.reg = some r → kValid u r = true
  other_banks : ∀ b, w.bank ≠ some b → bank u b = bank s b ∧ bankValid u b = bankValid s b
  bank_valid : ∀ b, w.bank = some b → bankValid u b = true
  t_eq : w.flag = false → u.t = s.t
  mlstate_eq : u.mlstate = w.phase.getD s.mlstate
  other_bytes : ∀ a, (∀ x, w.bytes = some x → ¬(x.1 ≤ a ∧ a < x.1 + x.2)) →
    memRead u.xmem a = memRead s.xmem a

/-! ### Each way of writing, and one after another -/

theorem Completed.trans {s u t : State} (h : Completed s (complete u)) (h' : Completed u t) : Completed s t := by
  obtain ⟨-, -, hcfg, hctrl, hf, hhe, hfc, hfm, hp, hml, hr, hi⟩ := h
  obtain ⟨hb, hd, hcfg', hctrl', hf', hhe', hfc', hfm', hp', hml', hr', hi'⟩ := h'
  exact ⟨hb, hd, hcfg'.trans hcfg, hctrl'.trans hctrl, hf'.trans hf, hhe'.trans hhe, hfc'.trans hfc,
    hfm'.trans hfm, hp'.trans hp, hml'.trans hml, hr'.trans hr, hi'.trans hi⟩

section
variable (s : State)

theorem writesWithin_nothing : WritesWithin {} s s where
  completed := (onlyCompletes_complete s).1
  other_cells _ _ _ := ⟨rfl, rfl⟩
  cells_valid := List.forall_mem_nil _
  other_regs _ _ := ⟨rfl, rfl⟩
  reg_valid _ h := nomatch h
  other_banks _ _ := ⟨rfl, rfl⟩
  bank_valid _ h := nomatch h
  t_eq _ := rfl
  mlstate_eq := rfl
  other_bytes _ _ := rfl

theorem writesWithin_setT (b : Bool) : WritesWithin { flag := true } s (setT s b) :=
  { writesWithin_nothing s with completed := completed_setT s b, t_eq := nofun }

theorem writesWithin_setK (r : KIdx) (v : Nat) : WritesWithin { reg := some r } s (setK s r v) :=
  { writesWithin_nothing s with
    completed := completed_setK s r v
    other_regs := fun q hq => by
      have hne : q ≠ r := fun h => hq (h ▸ rfl)
      rw [kReg_setK, kValid_setK, if_neg hne, if_neg hne]
      exact ⟨rfl, rfl⟩
    reg_valid := fun q hq => by rw [kValid_setK, if_pos (Option.some.inj hq).symm] }

theorem writesWithin_setBank (b : BankIdx) (B : Bank) : WritesWithin { bank := some b } s (setBank s b B) :=
  { writesWithin_nothing s with
    completed := by apply completed_complete <;> rfl
    other_banks := fun d hd => by
      have hne : d ≠ b := fun h => hd (h ▸ rfl)
      rw [bank_setBank, bankValid_setBank, if_neg hne, if_neg hne]
      exact ⟨rfl, rfl⟩
    bank_valid := fun d hd => by rw [bankValid_setBank, if_pos (Option.some.inj hd).symm] }

theorem writesWithin_memWriteList (addr : Nat) (vs : List Byte) :
    WritesWithin { bytes := some (addr, vs.length) } s { s with xmem := memWriteList s.xmem addr vs } :=
  { writesWithin_nothing s with
    completed := (onlyMem_memWriteList s addr vs).1
    other_bytes := fun _ ha => memRead_memWriteList_outside _ _ _ (ha _ rfl) }

end

section
variable {w : Footprint} {s u : State}

theorem WritesWithin.setMl (h : WritesWithin w s u) (m : MLState) :
    WritesWithin { w with phase := some m } s (setMl u m) :=
  { h with mlstate_eq := rfl }

/-- The cells of a destination that fits, written after whatever else. -/
theorem WritesWithin.setCells (h : WritesWithin w s u) {b : CellIdx} {vs : List Nat} {n : Nat}
    (hn : vs.length = n) (hfit : Dest b n) :
    WritesWithin { w with cells := (b, n) :: w.cells } s (setCells u b.toNat vs) where
  completed := h.completed.trans (completed_setCells u _ vs)
  other_cells j hj hout := by
    subst hn
    obtain ⟨hb, hw⟩ := List.forall_mem_cons.1 hout
    rw [rawCell_setCells _ _ _ hfit, cellValid_setCells _ _ _ hfit, if_neg hb, if_neg hb]
    exact h.other_cells j hj hw
  cells_valid sp hsp j hj := by
    subst hn
    rw [cellValid_setCells _ _ _ hfit]
    split
    · rfl
    · next hout =>
      obtain rfl | hsp := List.mem_cons.1 hsp
      · dsimp only at hj hout; omega
      · exact h.cells_valid sp hsp j hj
  other_regs := by simpa [kReg, kValid] using h.other_regs
  reg_valid := by simpa [kValid] using h.reg_valid
  other_banks := by simpa [bank, bankValid] using h.other_banks
  bank_valid := by simpa [bankValid] using h.bank_valid
  t_eq := by simpa using h.t_eq
  mlstate_eq := by simpa using h.mlstate_eq
  other_bytes := by simpa using h.other_bytes

theorem WritesWithin.setValues (h : WritesWithin w s u) {b : CellIdx} {vs : List Nat} {n : Nat}
    (hn : vs.length = n) (hfit : Dest b n) :
    WritesWithin { w with cells := (b, n) :: w.cells } s (setValues u b.toNat vs) :=
  h.setCells ((List.length_map _).trans hn) hfit

end

/-! ### Elements and points -/

/-- An element of `K` is read from `n` cells and written to `n` cells (R15, R25), in any configuration. -/
structure Occupies {α : Type} (K : Fld α) (n : Nat) : Prop where
  arity : K.arity = n
  put_length : ∀ a, (K.put a).length = n

theorem Occupies.quadExt {α : Type} {K : Fld α} {n : Nat} (h : Occupies K n) (p : Nat) (N : α) :
    Occupies (quadExt p K N) (2 * n) where
  arity := congrArg (2 * ·) h.arity
  put_length a := by
    simp only [Machine.quadExt, List.length_append, h.put_length]
    omega

theorem Occupies.cubExt {α : Type} {K : Fld α} {n : Nat} (h : Occupies K n) (p : Nat) (N : α) :
    Occupies (cubExt p K N) (3 * n) where
  arity := congrArg (3 * ·) h.arity
  put_length a := by
    simp only [Machine.cubExt, List.length_append, h.put_length]
    omega

section
variable (c : Config)

theorem occupies_fp : Occupies (fp c) 1 := ⟨rfl, fun _ => rfl⟩

theorem occupies_fp2 : Occupies (fp2 c) 2 := (occupies_fp c).quadExt _ _

theorem occupies_fp3 : Occupies (fp3 c) 3 := (occupies_fp c).cubExt _ _

theorem occupies_fp6Over2 (n : F2) : Occupies (fp6Over2 c n) 6 := (occupies_fp2 c).cubExt _ _

theorem occupies_fp6Over3 (n : F3) : Occupies (fp6Over3 c n) 6 := (occupies_fp3 c).quadExt _ _

theorem occupies_fp12 : Occupies (fp12 c) 12 := (occupies_fp6Over2 c _).quadExt _ _

end

section
variable {α : Type} {K : Fld α} {n : Nat} (hK : Occupies K n) {w : Footprint} {s u : State}
  (h : WritesWithin w s u) {b : CellIdx}
include hK h

theorem WritesWithin.writeElem (hb : Dest b K.arity) (a : α) :
    WritesWithin { w with cells := (b, n) :: w.cells } s (writeElem K u b.toNat a) :=
  h.setValues (hK.put_length a) (hK.arity ▸ hb)

theorem WritesWithin.writePt (hb : Dest b (3 * K.arity)) (P : Pt α) :
    WritesWithin { w with cells := (b, 3 * n) :: w.cells } s (writePt K u b.toNat P) := by
  refine h.setValues ?_ (hK.arity ▸ hb)
  simp only [List.length_append, hK.put_length]
  omega

theorem WritesWithin.writeAff (hb : Dest b (2 * K.arity)) (P : Aff α) :
    WritesWithin { w with cells := (b, 2 * n) :: w.cells } s (writeAff K u b.toNat P) := by
  refine h.setValues ?_ (hK.arity ▸ hb)
  simp only [List.length_append, hK.put_length]
  omega

end

/-! ### Codes of a command's own rule (R371)

ILLEGAL is raised in place of a command (R373), never by one. -/

theorem checkNeeds_ne_illegal (n : Needs) (s : State) : checkNeeds n s ≠ some .illegal := by
  obtain ⟨-, h⟩ | ⟨-, -, h⟩ | ⟨-, -, -, h⟩ | h := checkNeeds_cases n s <;> rw [h] <;> nofun

theorem map_ne_error {ε α β : Type} {r : Except ε α} {e : ε} (h : r ≠ .error e) (g : α → β) :
    r.map g ≠ .error e := by
  cases r with
  | error c => exact fun hc => h (congrArg _ (Except.error.inj hc))
  | ok a => nofun

theorem exists_of_map_eq_ok {ε α β : Type} {r : Except ε α} {g : α → β} {b : β} (h : r.map g = .ok b) :
    ∃ a, r = .ok a ∧ g a = b := by
  cases r with
  | error c => cases h
  | ok a => exact ⟨a, rfl, Except.ok.inj h⟩

theorem invOrFault_ne_illegal {α : Type} [DecidableEq α] (K : Fld α) (a : α) :
    invOrFault K a ≠ .error .illegal := by
  unfold invOrFault; split <;> nofun

theorem sqrtOrFault_ne_illegal (c : Config) (a : Nat) : sqrtOrFault c a ≠ .error .illegal := by
  unfold sqrtOrFault
  split
  · nofun
  · split <;> nofun

theorem orInvZero_ne_illegal (c : Config) (g : F12 → F12) (a : F12) : orInvZero c g a ≠ .error .illegal := by
  unfold orInvZero; split <;> nofun

theorem precompute_ne_illegal (c : Config) (Q : Pt F2) : precompute c Q ≠ .error .illegal := by
  unfold precompute
  dsimp only
  split
  · exact map_ne_error (map_ne_error (invOrFault_ne_illegal _ _) _) _
  · nofun

theorem xmemLoad_ne_illegal (s : State) (addr n : Nat) : xmemLoad s addr n ≠ .error .illegal := by
  obtain ⟨-, h⟩ | ⟨-, h⟩ := xmemLoad_cases s addr n <;> rw [h] <;> nofun

theorem xmemStore_ne_illegal (s : State) (addr n v : Nat) : xmemStore s addr n v ≠ .error .illegal := by
  obtain ⟨-, h⟩ | ⟨-, h⟩ := xmemStore_cases s addr n v <;> rw [h] <;> nofun

theorem loadBelowP_ne_illegal (s : State) (addr : XAddr) : loadBelowP s addr ≠ .error .illegal := by
  unfold loadBelowP
  split
  · next c hc => exact fun h => xmemLoad_ne_illegal _ _ _ (hc.trans (congrArg _ (Except.error.inj h)))
  · split <;> nofun

theorem faultCode_ge_two {c : FaultCode} (h : c ≠ .illegal) : 2 ≤ (faultCode c).toNat := by
  cases c with
  | illegal => exact absurd rfl h
  | _ => decide

/-! ### What each shape of command writes -/

/-- The outcome is a next state: fault entry with a code of a command, or writes inside `w` and the completion. -/
def FaultsOrWrites (w : Footprint) (s : State) (o : Out) : Prop :=
  ∃ t, o = .next t ∧ ((∃ c ≠ FaultCode.illegal, t = takeFault c s) ∨ ∃ u, WritesWithin w s u ∧ t = complete u)

section
variable {w : Footprint} {s : State} {n : Needs}

theorem command_faultsOrWrites {act : State → Result} (hne : act s ≠ .error .illegal)
    (h : checkNeeds n s = none → ∀ u, act s = .ok u → WritesWithin w s u) :
    FaultsOrWrites w s (command n act s) := by
  obtain ⟨c, hc, ho⟩ | ⟨-, c, hc, ho⟩ | ⟨hn, u, hu, ho⟩ := command_cases n act s
  · exact ⟨_, ho, .inl ⟨c, fun e => checkNeeds_ne_illegal n s (e ▸ hc), rfl⟩⟩
  · exact ⟨_, ho, .inl ⟨c, fun e => hne (e ▸ hc), rfl⟩⟩
  · exact ⟨_, ho, .inr ⟨u, h hn u hu, rfl⟩⟩

/-- A command whose rule never faults. -/
theorem command_ok_faultsOrWrites {act : State → State}
    (h : checkNeeds n s = none → WritesWithin w s (act s)) :
    FaultsOrWrites w s (command n (fun s => .ok (act s)) s) :=
  command_faultsOrWrites nofun fun hn _ hu => Except.ok.inj hu ▸ h hn

/-- A command whose rule writes a value that another function answers or refuses. -/
theorem command_map_faultsOrWrites {β : Type} {rule : State → Except FaultCode β} {write : State → β → State}
    (hne : rule s ≠ .error .illegal) (h : checkNeeds n s = none → ∀ a, WritesWithin w s (write s a)) :
    FaultsOrWrites w s (command n (fun s => (rule s).map (write s)) s) := by
  refine command_faultsOrWrites (map_ne_error hne _) fun hn u hu => ?_
  obtain ⟨a, -, rfl⟩ := exists_of_map_eq_ok hu
  exact h hn a

/-- A command that stores `count` bytes of a value. -/
theorem command_store_faultsOrWrites {addr : Nat} {count value : State → Nat} :
    FaultsOrWrites { bytes := some (addr, count s) } s
      (command n (fun s => xmemStore s addr (count s) (value s)) s) := by
  refine command_faultsOrWrites (xmemStore_ne_illegal _ _ _ _) fun _ u hu => ?_
  obtain ⟨-, he⟩ | ⟨-, hok⟩ := xmemStore_cases s addr (count s) (value s)
  · cases he.symm.trans hu
  · cases hok.symm.trans hu
    have hw := writesWithin_memWriteList s addr (toBytes (endianBig s) (value s) (count s))
    rwa [toBytes_length] at hw

end

section
variable (s : State) (rd rs1 rs2 : CellIdx)

/-- A command whose one destination is the cell `rd`. -/
theorem writesWithin_setCell {n : Needs} (hn : checkNeeds n s = none) (hm : (rd.toNat, 1) ∈ n.dst) (v : Nat) :
    WritesWithin { cells := [(rd, 1)] } s (setCell s rd.toNat v) :=
  (writesWithin_nothing s).setCells (vs := [v]) rfl (dest_of_checks hn hm)

theorem rawOp2_faultsOrWrites (op : Config → Nat → Nat → Nat) :
    FaultsOrWrites { cells := [(rd, 1)] } s (rawOp2 op rd rs1 rs2 s) :=
  command_ok_faultsOrWrites fun hn => writesWithin_setCell s rd hn (.head _) _

theorem rawOp1_faultsOrWrites (op : Config → Nat → Nat) :
    FaultsOrWrites { cells := [(rd, 1)] } s (rawOp1 op rd rs1 s) :=
  command_ok_faultsOrWrites fun hn => writesWithin_setCell s rd hn (.head _) _

theorem testOp1_faultsOrWrites (feature : Bool) (span : Nat × Nat) (test : State → Bool) :
    FaultsOrWrites { flag := true } s (testOp1 feature span test s) :=
  command_ok_faultsOrWrites fun _ => writesWithin_setT _ _

theorem testOp2_faultsOrWrites (feature : Bool) (span1 span2 : Nat × Nat) (test : State → Bool) :
    FaultsOrWrites { flag := true } s (testOp2 feature span1 span2 test s) :=
  command_ok_faultsOrWrites fun _ => writesWithin_setT _ _

theorem winOp_faultsOrWrites (feature : Bool) (tab : Vector (BitVec 32) 22) (kd ks : KIdx) :
    FaultsOrWrites { reg := some kd } s (winOp feature tab kd ks s) :=
  command_ok_faultsOrWrites fun _ => writesWithin_setK _ _ _

section
variable {α : Type} (feature : Bool) {K : Fld α} {n : Nat} (hK : Occupies K n)
include hK

theorem elemOp2_faultsOrWrites (op : α → α → α) :
    FaultsOrWrites { cells := [(rd, n)] } s (elemOp2 feature K op rd rs1 rs2 s) :=
  command_ok_faultsOrWrites fun hn =>
    (writesWithin_nothing s).writeElem hK (dest_of_checks hn (.head _)) _

theorem elemOp1?_faultsOrWrites {op : α → Except FaultCode α} (hop : ∀ a, op a ≠ .error .illegal) :
    FaultsOrWrites { cells := [(rd, n)] } s (elemOp1? feature K op rd rs1 s) :=
  command_map_faultsOrWrites (hop _) fun hn =>
    (writesWithin_nothing s).writeElem hK (dest_of_checks hn (.head _))

theorem elemOp1_faultsOrWrites (op : α → α) :
    FaultsOrWrites { cells := [(rd, n)] } s (elemOp1 feature K op rd rs1 s) :=
  elemOp1?_faultsOrWrites s rd rs1 feature hK fun _ => nofun

theorem elemOpK_faultsOrWrites (op : α → Nat → α) (k : KIdx) :
    FaultsOrWrites { cells := [(rd, n)] } s (elemOpK feature K op rd rs1 k s) :=
  command_ok_faultsOrWrites fun hn =>
    (writesWithin_nothing s).writeElem hK (dest_of_checks hn (.head _)) _

end

/-- In either kind of Fp6, and without one. -/
theorem onFp6_faultsOrWrites {w : Footprint} {run : {α : Type} → [DecidableEq α] → Fld α → Out}
    (h : ∀ {α : Type} [DecidableEq α] (K : Fld α), Occupies K 6 → FaultsOrWrites w s (run K)) :
    FaultsOrWrites w s (onFp6 s run) := by
  unfold onFp6
  split
  · exact ⟨_, rfl, .inl ⟨.unsupp, nofun, rfl⟩⟩
  · exact h _ (occupies_fp6Over2 _ _)
  · exact h _ (occupies_fp6Over3 _ _)

section
variable {α : Type} {E : Curve α} {n : Nat} (hE : Occupies E.K n)
include hE

theorem ptOp1_faultsOrWrites (op : Pt α → Pt α) :
    FaultsOrWrites { cells := [(rd, 3 * n)] } s (ptOp1 E op rd rs1 s) :=
  command_ok_faultsOrWrites fun hn => (writesWithin_nothing s).writePt hE (dest_of_checks hn (.head _)) _

theorem ptOp2_faultsOrWrites (op : Pt α → Pt α → Pt α) :
    FaultsOrWrites { cells := [(rd, 3 * n)] } s (ptOp2 E op rd rs1 rs2 s) :=
  command_ok_faultsOrWrites fun hn => (writesWithin_nothing s).writePt hE (dest_of_checks hn (.head _)) _

theorem ptOpMixed_faultsOrWrites (op : Pt α → Aff α → Pt α) :
    FaultsOrWrites { cells := [(rd, 3 * n)] } s (ptOpMixed E op rd rs1 rs2 s) :=
  command_ok_faultsOrWrites fun hn => (writesWithin_nothing s).writePt hE (dest_of_checks hn (.head _)) _

theorem ptConst_faultsOrWrites (P : Pt α) :
    FaultsOrWrites { cells := [(rd, 3 * n)] } s (ptConst E P rd s) :=
  command_ok_faultsOrWrites fun hn => (writesWithin_nothing s).writePt hE (dest_of_checks hn (.head _)) _

theorem ptOpK_faultsOrWrites (op : Pt α → Nat → Pt α) (k : KIdx) :
    FaultsOrWrites { cells := [(rd, 3 * n)] } s (ptOpK E op rd rs1 k s) :=
  command_ok_faultsOrWrites fun hn => (writesWithin_nothing s).writePt hE (dest_of_checks hn (.head _)) _

theorem ptOpAffine_faultsOrWrites [DecidableEq α] :
    FaultsOrWrites { cells := [(rd, 2 * n)] } s (ptOpAffine E rd rs1 s) := by
  refine command_faultsOrWrites ?_ fun hn u hu => ?_
  · dsimp only
    split <;> nofun
  · dsimp only at hu
    split at hu
    · cases hu
    · cases hu
      exact (writesWithin_nothing s).writeAff hE (dest_of_checks hn (.head _)) _

end

/-! ### The meanings with a rule of their own -/

theorem execMov_faultsOrWrites (cnt : BitVec 7) :
    FaultsOrWrites { cells := [(rd, cnt.toNat)] } s (execMov rd rs1 cnt s) :=
  command_ok_faultsOrWrites fun hn =>
    (writesWithin_nothing s).setCells (rawCells_length _ _ _) (dest_of_checks hn (.head _))

theorem execZero_faultsOrWrites (cnt : BitVec 7) :
    FaultsOrWrites { cells := [(rd, cnt.toNat)] } s (execZero rd cnt s) :=
  command_ok_faultsOrWrites fun hn =>
    (writesWithin_nothing s).setCells List.length_replicate (dest_of_checks hn (.head _))

theorem execPrecomp_faultsOrWrites (b : BankIdx) :
    FaultsOrWrites { bank := some b, phase := some .notStarted } s (execPrecomp b rs1 s) := by
  refine command_faultsOrWrites ?_ fun _ u hu => ?_
  · dsimp only
    split
    · nofun
    · exact map_ne_error (precompute_ne_illegal _ _) _
  · dsimp only at hu
    split at hu
    · cases hu
    · obtain ⟨B, -, rfl⟩ := exists_of_map_eq_ok hu
      exact (writesWithin_setBank s b B).setMl _

/-- The end of a Miller-loop command, after whatever else it writes. -/
theorem WritesWithin.writeMiller {w : Footprint} {s u : State} (h : WritesWithin w s u) {b : CellIdx}
    (hb : Dest b (fp12 u.cfg).arity) (f : F12) :
    WritesWithin { w with cells := (b, 12) :: w.cells, phase := some .finished } s (writeMiller u b f) :=
  (h.writeElem (occupies_fp12 _) hb f).setMl _

theorem execMiller_faultsOrWrites (b : BankIdx) :
    FaultsOrWrites { cells := [(rd, 12)], phase := some .finished } s (execMiller rd rs1 b s) :=
  command_ok_faultsOrWrites fun hn =>
    (writesWithin_nothing s).writeMiller (dest_of_checks hn (.head _)) _

theorem execMiller2_faultsOrWrites :
    FaultsOrWrites { cells := [(rd, 12)], phase := some .finished } s (execMiller2 rd rs1 rs2 s) :=
  command_ok_faultsOrWrites fun hn =>
    (writesWithin_nothing s).writeMiller (dest_of_checks hn (.head _)) _

theorem pairOp_faultsOrWrites {post : Config → F12 → Except FaultCode F12}
    (hpost : ∀ c f, post c f ≠ .error .illegal) :
    FaultsOrWrites { cells := [(rd, 12)], bank := some 0, phase := some .finished } s
      (pairOp post rd rs1 rs2 s) := by
  refine command_faultsOrWrites ?_ fun hn u hu => ?_
  · dsimp only
    split
    · nofun
    · split
      · next c hc => exact fun h => precompute_ne_illegal _ _ (hc.trans (congrArg _ (Except.error.inj h)))
      · exact map_ne_error (hpost _ _) _
  · dsimp only at hu
    split at hu
    · cases hu
    · split at hu
      · cases hu
      · next B _ =>
        obtain ⟨f, -, rfl⟩ := exists_of_map_eq_ok hu
        exact (writesWithin_setBank s 0 B).writeMiller (dest_of_checks hn (.head _)) f

end

/-! ### Every instruction -/

/-- Every instruction faults, or writes inside the footprint that the operand table gives it (R68). -/
theorem exec_faultsOrWrites (i : Instr) (s : State) : FaultsOrWrites (footprint s.cfg i) s (exec i s) := by
  have h1 := occupies_fp s.cfg
  have h2 := occupies_fp2 s.cfg
  have h3 := occupies_fp3 s.cfg
  have h12 := occupies_fp12 s.cfg
  unfold exec
  cases i with
  | nop => exact command_ok_faultsOrWrites fun _ => writesWithin_nothing s
  | ldfe f | ldraw f =>
    exact command_map_faultsOrWrites (loadBelowP_ne_illegal _ _) fun hn _ =>
      writesWithin_setCell s f hn (.head _) _
  | stfe | straw | stk => exact command_store_faultsOrWrites
  | ldk => exact command_map_faultsOrWrites (xmemLoad_ne_illegal _ _ _) fun _ => writesWithin_setK _ _
  | ldki => exact command_ok_faultsOrWrites fun _ => writesWithin_setK _ _ _
  | mov => exact execMov_faultsOrWrites _ _ _ _
  | zero => exact execZero_faultsOrWrites _ _ _
  | one rd => exact command_ok_faultsOrWrites fun hn => writesWithin_setCell s rd hn (.head _) _
  | mmul | bmul => exact rawOp2_faultsOrWrites _ _ _ _ _
  | tomont | frommont | ffrob => exact rawOp1_faultsOrWrites _ _ _ _
  | fadd | fsub | fmul => exact elemOp2_faultsOrWrites _ _ _ _ _ h1 _
  | f2add | f2sub | f2mul => exact elemOp2_faultsOrWrites _ _ _ _ _ h2 _
  | f3add | f3sub | f3mul => exact elemOp2_faultsOrWrites _ _ _ _ _ h3 _
  | f12add | f12sub | f12mul => exact elemOp2_faultsOrWrites _ _ _ _ _ h12 _
  | fsqr | fneg => exact elemOp1_faultsOrWrites _ _ _ _ h1 _
  | f2sqr | f2neg | f2frob => exact elemOp1_faultsOrWrites _ _ _ _ h2 _
  | f3sqr | f3neg | f3frob => exact elemOp1_faultsOrWrites _ _ _ _ h3 _
  | f12sqr | f12neg | f12frob | f12uinv | f12csqr | fexph | expz =>
    exact elemOp1_faultsOrWrites _ _ _ _ h12 _
  | finv => exact elemOp1?_faultsOrWrites _ _ _ _ h1 (invOrFault_ne_illegal _)
  | f2inv => exact elemOp1?_faultsOrWrites _ _ _ _ h2 (invOrFault_ne_illegal _)
  | f3inv => exact elemOp1?_faultsOrWrites _ _ _ _ h3 (invOrFault_ne_illegal _)
  | f12inv => exact elemOp1?_faultsOrWrites _ _ _ _ h12 (invOrFault_ne_illegal _)
  | fsqrt => exact elemOp1?_faultsOrWrites _ _ _ _ h1 (sqrtOrFault_ne_illegal _)
  | fexpe | fexp => exact elemOp1?_faultsOrWrites _ _ _ _ h12 (orInvZero_ne_illegal _ _)
  | fpow => exact elemOpK_faultsOrWrites _ _ _ _ h1 _ _
  | f12cexp => exact elemOpK_faultsOrWrites _ _ _ _ h12 _ _
  | fisz | fissq | fsign | fbit | f2isz | f3isz | f12isz | pisid | piswf | qisid | qiswf =>
    exact testOp1_faultsOrWrites _ _ _ _
  | feq | flt | f2eq | f3eq | f12eq | peq | qeq => exact testOp2_faultsOrWrites _ _ _ _ _
  | f6add | f6sub | f6mul => exact onFp6_faultsOrWrites _ fun _ h6 => elemOp2_faultsOrWrites _ _ _ _ _ h6 _
  | f6sqr | f6neg | f6frob => exact onFp6_faultsOrWrites _ fun _ h6 => elemOp1_faultsOrWrites _ _ _ _ h6 _
  | f6inv =>
    exact onFp6_faultsOrWrites _ fun _ h6 => elemOp1?_faultsOrWrites _ _ _ _ h6 (invOrFault_ne_illegal _)
  | f6isz => exact onFp6_faultsOrWrites _ fun _ _ => testOp1_faultsOrWrites _ _ _ _
  | f6eq => exact onFp6_faultsOrWrites _ fun _ _ => testOp2_faultsOrWrites _ _ _ _ _
  | pdbl | pneg => exact ptOp1_faultsOrWrites _ _ _ (E := g1 s.cfg) h1 _
  | padd => exact ptOp2_faultsOrWrites _ _ _ _ (E := g1 s.cfg) h1 _
  | pmadd => exact ptOpMixed_faultsOrWrites _ _ _ _ (E := g1 s.cfg) h1 _
  | paff => exact ptOpAffine_faultsOrWrites _ _ _ (E := g1 s.cfg) h1
  | pzero | pone => exact ptConst_faultsOrWrites _ _ (E := g1 s.cfg) h1 _
  | psmul | psmulw => exact ptOpK_faultsOrWrites _ _ _ (E := g1 s.cfg) h1 _ _
  | qdbl | qneg => exact ptOp1_faultsOrWrites _ _ _ (E := g2 s.cfg) h2 _
  | qadd => exact ptOp2_faultsOrWrites _ _ _ _ (E := g2 s.cfg) h2 _
  | qmadd => exact ptOpMixed_faultsOrWrites _ _ _ _ (E := g2 s.cfg) h2 _
  | qaff => exact ptOpAffine_faultsOrWrites _ _ _ (E := g2 s.cfg) h2
  | qzero | qone => exact ptConst_faultsOrWrites _ _ (E := g2 s.cfg) h2 _
  | qsmul | qsmulw => exact ptOpK_faultsOrWrites _ _ _ (E := g2 s.cfg) h2 _ _
  | winsel1 | winsel2 => exact winOp_faultsOrWrites _ _ _ _ _
  | precomp => exact execPrecomp_faultsOrWrites _ _ _
  | miller => exact execMiller_faultsOrWrites _ _ _ _
  | miller2 => exact execMiller2_faultsOrWrites _ _ _ _
  | pair => exact pairOp_faultsOrWrites _ _ _ _ fun _ _ => nofun
  | pairr => exact pairOp_faultsOrWrites _ _ _ _ fun _ => orInvZero_ne_illegal _ _

/-- Settles O13: fault entry with a code of a command, or writes inside the footprint of the operand table. -/
theorem everyCommand : Obligations.EveryCommand := by
  intro s i
  obtain ⟨t, ht, ⟨c, hc, rfl⟩ | ⟨u, hw, rfl⟩⟩ := exec_faultsOrWrites i s
  · exact ⟨_, ht, .inl ⟨faultCode c, faultCode_ge_two hc, (faultCode_range c).2, takeFault_eq c s⟩⟩
  · refine ⟨_, ht, .inr ⟨hw.completed, hw.other_cells, hw.cells_valid, hw.other_regs, hw.reg_valid,
      hw.other_banks, hw.bank_valid, hw.t_eq, hw.mlstate_eq, fun a ha => hw.other_bytes a fun x hx => ?_⟩⟩
    by_cases hX : Spec.writesX i = true
    · exact ha x hX ((if_pos hX).symm.trans hx)
    · cases (if_neg hX).symm.trans hx

end Sys2Proof.Machine

/-! PROOFS. The encoding (30_encoding.md): the fields of a word, the formats, the decoder against the encoder and the
opcode map; what a step does with the accepted word; the checks before a command's own rule. -/

namespace Sys2Proof.Machine

/-! ## The fields of a word (R90) -/

theorem splitWord_joinWord (f : Fields) : splitWord (joinWord f) = f := by
  obtain ⟨op, rd, rs1, rs2, fn⟩ := f
  simp only [splitWord, joinWord, Fields.mk.injEq]
  refine ⟨?_, ?_, ?_, ?_, ?_⟩ <;> ext j hj <;> grind

theorem joinWord_splitWord (w : Word) : joinWord (splitWord w) = w := by
  simp only [joinWord, splitWord]
  ext j hj
  grind

theorem splitWord_inj {v w : Word} : splitWord v = splitWord w ↔ v = w :=
  ⟨fun h => by rw [← joinWord_splitWord v, h, joinWord_splitWord], congrArg _⟩

theorem splitWord_and (v w : Word) : splitWord (v &&& w) =
    ⟨(splitWord v).op &&& (splitWord w).op, (splitWord v).rd &&& (splitWord w).rd,
      (splitWord v).rs1 &&& (splitWord w).rs1, (splitWord v).rs2 &&& (splitWord w).rs2,
      (splitWord v).fn &&& (splitWord w).fn⟩ := by
  simp only [splitWord, BitVec.extractLsb'_and]

theorem fields_eq {f : Fields} {op : BitVec 8} {rd rs1 rs2 : BitVec 7} {fn : BitVec 3} (hop : op = f.op)
    (hrd : rd = f.rd) (hrs1 : rs1 = f.rs1) (hrs2 : rs2 = f.rs2) (hfn : fn = f.fn) :
    (⟨op, rd, rs1, rs2, fn⟩ : Fields) = f := by
  subst hop hrd hrs1 hrs2 hfn
  rfl

/-! The overlays `addr` and `imm10`. -/

@[simp] theorem addr_withAddr (op : BitVec 8) (rd : BitVec 7) (a : BitVec 17) :
    (withAddr op rd a).addr = a := by
  simp only [withAddr, Fields.addr]
  ext j hj
  grind

theorem withAddr_addr {f : Fields} {op : BitVec 8} {rd : BitVec 7} (hop : op = f.op)
    (hrd : rd = f.rd) : withAddr op rd f.addr = f := by
  apply fields_eq hop hrd <;> simp only [Fields.addr] <;> ext j hj <;> grind

theorem imm10_of_extracts (n : BitVec 10) : n.extractLsb' 3 7 ++ n.extractLsb' 0 3 = n := by
  ext j hj
  grind

theorem imm10_rs2 (f : Fields) : f.imm10.extractLsb' 3 7 = f.rs2 := BitVec.extractLsb'_append_eq_left

theorem imm10_fn (f : Fields) : f.imm10.extractLsb' 0 3 = f.fn := BitVec.extractLsb'_append_eq_right

/-! Register numbers and banks in wider fields. -/

theorem kHigh_ofK : ∀ k : KIdx, kHigh (ofK k) = 0 := by decide

theorem kOf_ofK : ∀ k : KIdx, kOf (ofK k) = k := by decide

theorem ofK_kOf : ∀ {x : BitVec 7}, kHigh x = 0 → ofK (kOf x) = x := by decide

theorem bankHigh_ofBank : ∀ b : BankIdx, bankHigh (ofBank b) = 0 := by decide

theorem bankOf_ofBank : ∀ b : BankIdx, bankOf (ofBank b) = b := by decide

theorem ofBank_bankOf : ∀ {x : BitVec 3}, bankHigh x = 0 → ofBank (bankOf x) = x := by decide

/-! ## The formats (R91)

What each format asks of the fields, and the command it then answers. -/

theorem mbz_eq_ok_iff {z : Bool} {i j : Instr} : mbz z i = .ok j ↔ z = true ∧ i = j := by
  cases z <;> simp [mbz]

section
variable {f : Fields} {i : Instr}

theorem fmtN_eq_ok {c : Instr} :
    fmtN c f = .ok i ↔ (f.rd = 0 ∧ f.rs1 = 0 ∧ f.rs2 = 0 ∧ f.fn = 0) ∧ c = i := by
  simp [fmtN, mbz_eq_ok_iff, and_assoc]

theorem fmtM_eq_ok {c : CellIdx → BitVec 17 → Instr} : fmtM c f = .ok i ↔ True ∧ c f.rd f.addr = i := by
  simp [fmtM]

theorem fmtMK_eq_ok {c : KIdx → BitVec 17 → Instr} :
    fmtMK c f = .ok i ↔ kHigh f.rd = 0 ∧ c (kOf f.rd) f.addr = i := by
  simp [fmtMK, mbz_eq_ok_iff]

theorem fmtR3_eq_ok {c : CellIdx → CellIdx → CellIdx → Instr} :
    fmtR3 c f = .ok i ↔ f.fn = 0 ∧ c f.rd f.rs1 f.rs2 = i := by
  simp [fmtR3, mbz_eq_ok_iff]

theorem fmtR2_eq_ok {c : CellIdx → CellIdx → Instr} :
    fmtR2 c f = .ok i ↔ (f.rs2 = 0 ∧ f.fn = 0) ∧ c f.rd f.rs1 = i := by
  simp [fmtR2, mbz_eq_ok_iff]

theorem fmtD_eq_ok {c : CellIdx → Instr} :
    fmtD c f = .ok i ↔ (f.rs1 = 0 ∧ f.rs2 = 0 ∧ f.fn = 0) ∧ c f.rd = i := by
  simp [fmtD, mbz_eq_ok_iff, and_assoc]

theorem fmtDI_eq_ok {c : CellIdx → BitVec 7 → Instr} :
    fmtDI c f = .ok i ↔ ((f.rs1 = 0 ∧ f.fn = 0) ∧ f.rs2 ≠ 0) ∧ c f.rd f.rs2 = i := by
  unfold fmtDI
  split
  · split <;> simp_all
  · simp_all

theorem fmtRI_eq_ok {c : CellIdx → CellIdx → BitVec 7 → Instr} :
    fmtRI c f = .ok i ↔ f.fn = 0 ∧ c f.rd f.rs1 f.rs2 = i := by
  simp [fmtRI, mbz_eq_ok_iff]

theorem fmtMov_eq_ok {c : CellIdx → CellIdx → BitVec 7 → Instr} :
    fmtMov c f = .ok i ↔ (f.fn = 0 ∧ f.rs2 ≠ 0) ∧ c f.rd f.rs1 f.rs2 = i := by
  unfold fmtMov
  split
  · split <;> simp_all
  · simp_all

theorem fmtRK_eq_ok {c : CellIdx → CellIdx → KIdx → Instr} :
    fmtRK c f = .ok i ↔ (kHigh f.rs2 = 0 ∧ f.fn = 0) ∧ c f.rd f.rs1 (kOf f.rs2) = i := by
  simp [fmtRK, mbz_eq_ok_iff, and_comm]

theorem fmtRKW_eq_ok {c : CellIdx → CellIdx → KIdx → BitVec 3 → Instr} :
    fmtRKW c f = .ok i ↔ kHigh f.rs2 = 0 ∧ c f.rd f.rs1 (kOf f.rs2) f.fn = i := by
  simp [fmtRKW, mbz_eq_ok_iff]

theorem fmtT1_eq_ok {c : CellIdx → Instr} :
    fmtT1 c f = .ok i ↔ (f.rd = 0 ∧ f.rs2 = 0 ∧ f.fn = 0) ∧ c f.rs1 = i := by
  simp [fmtT1, mbz_eq_ok_iff, and_assoc]

theorem fmtT2_eq_ok {c : CellIdx → CellIdx → Instr} :
    fmtT2 c f = .ok i ↔ (f.rd = 0 ∧ f.fn = 0) ∧ c f.rs1 f.rs2 = i := by
  simp [fmtT2, mbz_eq_ok_iff]

theorem fmtTB_eq_ok {c : CellIdx → BitVec 10 → Instr} :
    fmtTB c f = .ok i ↔ f.rd = 0 ∧ c f.rs1 f.imm10 = i := by
  simp [fmtTB, mbz_eq_ok_iff]

theorem fmtKK_eq_ok {c : KIdx → KIdx → Instr} :
    fmtKK c f = .ok i ↔
      (kHigh f.rd = 0 ∧ kHigh f.rs1 = 0 ∧ f.rs2 = 0 ∧ f.fn = 0) ∧ c (kOf f.rd) (kOf f.rs1) = i := by
  simp [fmtKK, mbz_eq_ok_iff]
  tauto

theorem fmtPB_eq_ok {c : BankIdx → CellIdx → Instr} :
    fmtPB c f = .ok i ↔ (f.rd = 0 ∧ f.rs2 = 0 ∧ bankHigh f.fn = 0) ∧ c (bankOf f.fn) f.rs1 = i := by
  simp [fmtPB, mbz_eq_ok_iff, and_assoc]

theorem fmtMB_eq_ok {c : CellIdx → CellIdx → BankIdx → Instr} :
    fmtMB c f = .ok i ↔ (f.rs2 = 0 ∧ bankHigh f.fn = 0) ∧ c f.rd f.rs1 (bankOf f.fn) = i := by
  simp [fmtMB, mbz_eq_ok_iff]

end

/-! ## Decoding what was encoded (R93, R94) -/

section
variable (op : BitVec 8) (rd rs1 : CellIdx) (k l : KIdx) (a : BitVec 17) (b : BankIdx)

theorem fmtM_withAddr (c : CellIdx → BitVec 17 → Instr) : fmtM c (withAddr op rd a) = .ok (c rd a) :=
  fmtM_eq_ok.2 ⟨trivial, congrArg _ (addr_withAddr _ _ _)⟩

theorem fmtMK_withAddr_ofK (c : KIdx → BitVec 17 → Instr) :
    fmtMK c (withAddr op (ofK k) a) = .ok (c k a) :=
  fmtMK_eq_ok.2 ⟨kHigh_ofK k, congrArg₂ c (kOf_ofK k) (addr_withAddr _ _ _)⟩

theorem fmtRK_ofK (c : CellIdx → CellIdx → KIdx → Instr) :
    fmtRK c ⟨op, rd, rs1, ofK k, 0⟩ = .ok (c rd rs1 k) :=
  fmtRK_eq_ok.2 ⟨⟨kHigh_ofK k, rfl⟩, congrArg _ (kOf_ofK k)⟩

theorem fmtRKW_ofK (c : CellIdx → CellIdx → KIdx → BitVec 3 → Instr) (n : BitVec 3) :
    fmtRKW c ⟨op, rd, rs1, ofK k, n⟩ = .ok (c rd rs1 k n) :=
  fmtRKW_eq_ok.2 ⟨kHigh_ofK k, congrArg (c rd rs1 · n) (kOf_ofK k)⟩

theorem fmtTB_imm10 (c : CellIdx → BitVec 10 → Instr) (n : BitVec 10) :
    fmtTB c ⟨op, 0, rs1, n.extractLsb' 3 7, n.extractLsb' 0 3⟩ = .ok (c rs1 n) :=
  fmtTB_eq_ok.2 ⟨rfl, congrArg _ (imm10_of_extracts n)⟩

theorem fmtKK_ofK (c : KIdx → KIdx → Instr) : fmtKK c ⟨op, ofK k, ofK l, 0, 0⟩ = .ok (c k l) :=
  fmtKK_eq_ok.2 ⟨⟨kHigh_ofK k, kHigh_ofK l, rfl, rfl⟩, congrArg₂ c (kOf_ofK k) (kOf_ofK l)⟩

theorem fmtPB_ofBank (c : BankIdx → CellIdx → Instr) : fmtPB c ⟨op, 0, rs1, 0, ofBank b⟩ = .ok (c b rs1) :=
  fmtPB_eq_ok.2 ⟨⟨rfl, rfl, bankHigh_ofBank b⟩, congrArg (c · rs1) (bankOf_ofBank b)⟩

theorem fmtMB_ofBank (c : CellIdx → CellIdx → BankIdx → Instr) :
    fmtMB c ⟨op, rd, rs1, 0, ofBank b⟩ = .ok (c rd rs1 b) :=
  fmtMB_eq_ok.2 ⟨⟨rfl, bankHigh_ofBank b⟩, congrArg _ (bankOf_ofBank b)⟩

end

/-- The row of the opcode map takes the fields of its command back, format by format. -/
theorem decodeFields_encodeFields {i : Instr} (h : i.wf = true) : decodeFields (encodeFields i) = .ok i := by
  cases i with
  | nop => exact fmtN_eq_ok.2 ⟨⟨rfl, rfl, rfl, rfl⟩, rfl⟩
  | ldfe | stfe | ldraw | straw => exact fmtM_withAddr _ _ _ _
  | ldk | stk | ldki => exact fmtMK_withAddr_ofK _ _ _ _
  | mov => exact fmtMov_eq_ok.2 ⟨⟨rfl, bne_iff_ne.1 h⟩, rfl⟩
  | zero => exact fmtDI_eq_ok.2 ⟨⟨⟨rfl, rfl⟩, bne_iff_ne.1 h⟩, rfl⟩
  | mmul | bmul | fadd | fsub | fmul | f2add | f2sub | f2mul | f3add | f3sub | f3mul | f6add | f6sub | f6mul
  | f12add | f12sub | f12mul | padd | pmadd | qadd | qmadd | miller2 | pair | pairr =>
    exact fmtR3_eq_ok.2 ⟨rfl, rfl⟩
  | tomont | frommont | fsqr | fneg | finv | fsqrt | f2sqr | f2neg | f2inv | f3sqr | f3neg | f3inv | f6sqr
  | f6neg | f6inv | f12sqr | f12neg | f12inv | f12uinv | f12csqr | pdbl | pneg | paff | qdbl | qneg | qaff
  | fexpe | fexph | fexp | expz => exact fmtR2_eq_ok.2 ⟨⟨rfl, rfl⟩, rfl⟩
  | ffrob | f2frob | f3frob | f6frob | f12frob => exact fmtRI_eq_ok.2 ⟨rfl, rfl⟩
  | one | pzero | pone | qzero | qone => exact fmtD_eq_ok.2 ⟨⟨rfl, rfl, rfl⟩, rfl⟩
  | fpow | f12cexp | psmul | qsmul => exact fmtRK_ofK _ _ _ _ _
  | psmulw | qsmulw => exact fmtRKW_ofK _ _ _ _ _ _
  | fisz | fissq | fsign | f2isz | f3isz | f6isz | f12isz | pisid | piswf | qisid | qiswf =>
    exact fmtT1_eq_ok.2 ⟨⟨rfl, rfl, rfl⟩, rfl⟩
  | feq | flt | f2eq | f3eq | f6eq | f12eq | peq | qeq => exact fmtT2_eq_ok.2 ⟨⟨rfl, rfl⟩, rfl⟩
  | fbit => exact fmtTB_imm10 _ _ _ _
  | winsel1 | winsel2 => exact fmtKK_ofK _ _ _ _
  | precomp => exact fmtPB_ofBank _ _ _ _
  | miller => exact fmtMB_ofBank _ _ _ _ _

/-- Settles O1: the fields of the word are the fields that were joined, and their row takes them back. -/
theorem decodeOfEncode : Obligations.DecodeOfEncode := fun i h => by
  rw [decode, encode, splitWord_joinWord, decodeFields_encodeFields h]

/-! ## The opcode map (R94)

`Spec.opcodeRow` gives a row by its match, which holds the opcode, and its mask, which marks the opcode and the
must-be-zero bits. -/

theorem splitWord_match (j : Instr) :
    splitWord (Spec.opcodeRow j).1 = ⟨(encodeFields j).op, 0, 0, 0, 0⟩ := by
  cases j <;> simp only [splitWord, Spec.opcodeRow, encodeFields, withAddr] <;> rfl

theorem splitWord_mask_op (j : Instr) : (splitWord (Spec.opcodeRow j).2).op = BitVec.allOnes 8 := by
  cases j <;> simp only [splitWord, Spec.opcodeRow] <;> rfl

/-- The bits below the opcode that `mask` marks are zero in the fields `f` (R91). -/
def MbzZero (mask : Word) (f : Fields) : Prop :=
  f.rd &&& (splitWord mask).rd = 0 ∧ f.rs1 &&& (splitWord mask).rs1 = 0 ∧
  f.rs2 &&& (splitWord mask).rs2 = 0 ∧ f.fn &&& (splitWord mask).fn = 0

/-- A masked word is the match exactly when its opcode is the row's and its must-be-zero bits are zero. -/
theorem masked_eq_match_iff (w : Word) (j : Instr) :
    w &&& (Spec.opcodeRow j).2 = (Spec.opcodeRow j).1 ↔
      (splitWord w).op = (encodeFields j).op ∧ MbzZero (Spec.opcodeRow j).2 (splitWord w) := by
  rw [← splitWord_inj, splitWord_match, splitWord_and, splitWord_mask_op, BitVec.and_allOnes,
    Fields.mk.injEq]
  rfl

/-! The masks, format by format: which fields they ask to be zero. -/

section
variable (x : BitVec 7) (y : BitVec 3)

@[simp] theorem and_seven_ones : x &&& 0x7F#7 = x := BitVec.and_allOnes

@[simp] theorem and_three_ones : y &&& 7#3 = y := BitVec.and_allOnes

@[simp] theorem and_kHigh_mask : x &&& 0x78#7 = 0#7 ↔ kHigh x = 0 := by revert x; decide

@[simp] theorem and_bankHigh_mask : y &&& 6#3 = 0#3 ↔ bankHigh y = 0 := by revert y; decide

end

section
variable (f : Fields)

theorem mbzZero_maskN :
    MbzZero 0xFFFFFFFF f ↔ f.rd = 0 ∧ f.rs1 = 0 ∧ f.rs2 = 0 ∧ f.fn = 0 := by simp [MbzZero, splitWord]

theorem mbzZero_maskM : MbzZero 0xFF000000 f ↔ True := by simp [MbzZero, splitWord]

theorem mbzZero_maskMK : MbzZero 0xFFF00000 f ↔ kHigh f.rd = 0 := by simp [MbzZero, splitWord]

/-- The mask of formats R3 and RI. -/
theorem mbzZero_maskR3 : MbzZero 0xFF000007 f ↔ f.fn = 0 := by simp [MbzZero, splitWord]

theorem mbzZero_maskR2 : MbzZero 0xFF0003FF f ↔ f.rs2 = 0 ∧ f.fn = 0 := by simp [MbzZero, splitWord]

theorem mbzZero_maskD : MbzZero 0xFF01FFFF f ↔ f.rs1 = 0 ∧ f.rs2 = 0 ∧ f.fn = 0 := by
  simp [MbzZero, splitWord]

theorem mbzZero_maskDI : MbzZero 0xFF01FC07 f ↔ f.rs1 = 0 ∧ f.fn = 0 := by simp [MbzZero, splitWord]

theorem mbzZero_maskRK : MbzZero 0xFF0003C7 f ↔ kHigh f.rs2 = 0 ∧ f.fn = 0 := by simp [MbzZero, splitWord]

theorem mbzZero_maskRKW : MbzZero 0xFF0003C0 f ↔ kHigh f.rs2 = 0 := by simp [MbzZero, splitWord]

theorem mbzZero_maskT1 : MbzZero 0xFFFE03FF f ↔ f.rd = 0 ∧ f.rs2 = 0 ∧ f.fn = 0 := by
  simp [MbzZero, splitWord]

theorem mbzZero_maskT2 : MbzZero 0xFFFE0007 f ↔ f.rd = 0 ∧ f.fn = 0 := by simp [MbzZero, splitWord]

theorem mbzZero_maskTB : MbzZero 0xFFFE0000 f ↔ f.rd = 0 := by simp [MbzZero, splitWord]

theorem mbzZero_maskKK :
    MbzZero 0xFFF1E3FF f ↔ kHigh f.rd = 0 ∧ kHigh f.rs1 = 0 ∧ f.rs2 = 0 ∧ f.fn = 0 := by
  simp [MbzZero, splitWord]

theorem mbzZero_maskPB : MbzZero 0xFFFE03FE f ↔ f.rd = 0 ∧ f.rs2 = 0 ∧ bankHigh f.fn = 0 := by
  simp [MbzZero, splitWord]

theorem mbzZero_maskMB : MbzZero 0xFF0003FE f ↔ f.rs2 = 0 ∧ bankHigh f.fn = 0 := by
  simp [MbzZero, splitWord]

end

/-! ## What a row decodes (R91, R93, R94) -/

/-- The row is that of MOV or of ZERO, whose count is not 0 (R93). -/
def hasCount (j : Instr) : Bool :=
  (Spec.opcodeRow j).1 == 0x08000000 || (Spec.opcodeRow j).1 == 0x09000000

theorem hasCount_iff (j : Instr) :
    hasCount j = true ↔ (Spec.opcodeRow j).1 = 0x08000000 ∨ (Spec.opcodeRow j).1 = 0x09000000 := by
  simp [hasCount]

/-- The fields `f`, under the opcode of `j`, are legal in the row of `j` (R91). -/
def Legal (j : Instr) (f : Fields) : Prop :=
  MbzZero (Spec.opcodeRow j).2 f ∧ (hasCount j = true → f.rs2 ≠ 0)

/-- The result `r` of decoding the fields `f` in the row of `j`: when they are legal, one well-formed command of
that row, with these fields; else none. -/
def RowDecodes (j : Instr) (f : Fields) (r : Except DecodeError Instr) : Prop :=
  ∃ i, (∀ k, r = .ok k ↔ Legal j f ∧ i = k) ∧ Spec.opcodeRow i = Spec.opcodeRow j ∧
    (Legal j f → encodeFields i = f ∧ i.wf = true)

section
variable {j i : Instr} {f : Fields} {r : Except DecodeError Instr} {p : Prop}

theorem rowDecodes_of_legal_iff (hlegal : Legal j f ↔ p) (hr : ∀ k, r = .ok k ↔ p ∧ i = k)
    (hrow : Spec.opcodeRow i = Spec.opcodeRow j) (henc : p → encodeFields i = f ∧ i.wf = true) :
    RowDecodes j f r :=
  ⟨i, fun k => (hr k).trans (and_congr_left' hlegal.symm), hrow, fun h => henc (hlegal.1 h)⟩

/-- Every row but those of MOV and ZERO. -/
theorem rowDecodes (hcount : hasCount j = false) (hr : ∀ k, r = .ok k ↔ p ∧ i = k)
    (hmask : MbzZero (Spec.opcodeRow j).2 f ↔ p) (hrow : Spec.opcodeRow i = Spec.opcodeRow j)
    (hwf : i.wf = true) (henc : p → encodeFields i = f) : RowDecodes j f r :=
  rowDecodes_of_legal_iff ((and_iff_left fun h => absurd (hcount.symm.trans h) Bool.false_ne_true).trans hmask)
    hr hrow fun h => ⟨henc h, hwf⟩

end

/-- Every row of the opcode map, format by format. -/
theorem decodeFields_rowDecodes {j : Instr} {f : Fields} (hop : f.op = (encodeFields j).op) :
    RowDecodes j f (decodeFields f) := by
  obtain ⟨op, rd, rs1, rs2, fn⟩ := f
  subst hop
  cases j with
  | nop =>
    exact rowDecodes rfl (fun _ => fmtN_eq_ok) (mbzZero_maskN _) rfl rfl fun ⟨h1, h2, h3, h4⟩ =>
      fields_eq rfl h1.symm h2.symm h3.symm h4.symm
  | ldfe | stfe | ldraw | straw =>
    exact rowDecodes rfl (fun _ => fmtM_eq_ok) (mbzZero_maskM _) rfl rfl fun _ => withAddr_addr rfl rfl
  | ldk | stk | ldki =>
    exact rowDecodes rfl (fun _ => fmtMK_eq_ok) (mbzZero_maskMK _) rfl rfl fun hk =>
      withAddr_addr rfl (ofK_kOf hk)
  | mov =>
    exact rowDecodes_of_legal_iff (and_congr (mbzZero_maskR3 _) (imp_iff_right rfl)) (fun _ => fmtMov_eq_ok) rfl
      fun ⟨h, hcnt⟩ => ⟨fields_eq rfl rfl rfl rfl h.symm, bne_iff_ne.2 hcnt⟩
  | zero =>
    exact rowDecodes_of_legal_iff (and_congr (mbzZero_maskDI _) (imp_iff_right rfl)) (fun _ => fmtDI_eq_ok) rfl
      fun ⟨⟨h1, h2⟩, hcnt⟩ => ⟨fields_eq rfl rfl h1.symm rfl h2.symm, bne_iff_ne.2 hcnt⟩
  | mmul | bmul | fadd | fsub | fmul | f2add | f2sub | f2mul | f3add | f3sub | f3mul | f6add | f6sub | f6mul
  | f12add | f12sub | f12mul | padd | pmadd | qadd | qmadd | miller2 | pair | pairr =>
    exact rowDecodes rfl (fun _ => fmtR3_eq_ok) (mbzZero_maskR3 _) rfl rfl fun h =>
      fields_eq rfl rfl rfl rfl h.symm
  | tomont | frommont | fsqr | fneg | finv | fsqrt | f2sqr | f2neg | f2inv | f3sqr | f3neg | f3inv | f6sqr
  | f6neg | f6inv | f12sqr | f12neg | f12inv | f12uinv | f12csqr | pdbl | pneg | paff | qdbl | qneg | qaff
  | fexpe | fexph | fexp | expz =>
    exact rowDecodes rfl (fun _ => fmtR2_eq_ok) (mbzZero_maskR2 _) rfl rfl fun ⟨h1, h2⟩ =>
      fields_eq rfl rfl rfl h1.symm h2.symm
  | ffrob | f2frob | f3frob | f6frob | f12frob =>
    exact rowDecodes rfl (fun _ => fmtRI_eq_ok) (mbzZero_maskR3 _) rfl rfl fun h =>
      fields_eq rfl rfl rfl rfl h.symm
  | one | pzero | pone | qzero | qone =>
    exact rowDecodes rfl (fun _ => fmtD_eq_ok) (mbzZero_maskD _) rfl rfl fun ⟨h1, h2, h3⟩ =>
      fields_eq rfl rfl h1.symm h2.symm h3.symm
  | fpow | f12cexp | psmul | qsmul =>
    exact rowDecodes rfl (fun _ => fmtRK_eq_ok) (mbzZero_maskRK _) rfl rfl fun ⟨hk, h⟩ =>
      fields_eq rfl rfl rfl (ofK_kOf hk) h.symm
  | psmulw | qsmulw =>
    exact rowDecodes rfl (fun _ => fmtRKW_eq_ok) (mbzZero_maskRKW _) rfl rfl fun hk =>
      fields_eq rfl rfl rfl (ofK_kOf hk) rfl
  | fisz | fissq | fsign | f2isz | f3isz | f6isz | f12isz | pisid | piswf | qisid | qiswf =>
    exact rowDecodes rfl (fun _ => fmtT1_eq_ok) (mbzZero_maskT1 _) rfl rfl fun ⟨h1, h2, h3⟩ =>
      fields_eq rfl h1.symm rfl h2.symm h3.symm
  | feq | flt | f2eq | f3eq | f6eq | f12eq | peq | qeq =>
    exact rowDecodes rfl (fun _ => fmtT2_eq_ok) (mbzZero_maskT2 _) rfl rfl fun ⟨h1, h2⟩ =>
      fields_eq rfl h1.symm rfl rfl h2.symm
  | fbit =>
    exact rowDecodes rfl (fun _ => fmtTB_eq_ok) (mbzZero_maskTB _) rfl rfl fun h =>
      fields_eq rfl h.symm rfl (imm10_rs2 _) (imm10_fn _)
  | winsel1 | winsel2 =>
    exact rowDecodes rfl (fun _ => fmtKK_eq_ok) (mbzZero_maskKK _) rfl rfl fun ⟨hk, hl, h1, h2⟩ =>
      fields_eq rfl (ofK_kOf hk) (ofK_kOf hl) h1.symm h2.symm
  | precomp =>
    exact rowDecodes rfl (fun _ => fmtPB_eq_ok) (mbzZero_maskPB _) rfl rfl fun ⟨h1, h2, hb⟩ =>
      fields_eq rfl h1.symm rfl h2.symm (ofBank_bankOf hb)
  | miller =>
    exact rowDecodes rfl (fun _ => fmtMB_eq_ok) (mbzZero_maskMB _) rfl rfl fun ⟨h1, hb⟩ =>
      fields_eq rfl rfl rfl h1.symm (ofBank_bankOf hb)

/-- A word that decodes has the opcode of its command: each row of the decoder answers its own command. -/
theorem op_of_decodeFields {f : Fields} {i : Instr} (h : decodeFields f = .ok i) :
    f.op = (encodeFields i).op := by
  apply BitVec.eq_of_toNat_eq
  unfold decodeFields at h
  split at h
  -- MOV, ZERO and format M do not end in `mbz`; the last case is the reserved opcodes (R95).
  case h_9 => obtain ⟨-, rfl⟩ := fmtMov_eq_ok.1 h; assumption
  case h_10 => obtain ⟨-, rfl⟩ := fmtDI_eq_ok.1 h; assumption
  case h_2 | h_3 | h_4 | h_5 => obtain ⟨-, rfl⟩ := fmtM_eq_ok.1 h; assumption
  case h_105 => cases h
  all_goals rw [mbz_eq_ok h]; assumption

theorem decodeFields_ok {f : Fields} {i : Instr} (h : decodeFields f = .ok i) :
    Legal i f ∧ encodeFields i = f ∧ i.wf = true := by
  obtain ⟨k, hdec, -, henc⟩ := decodeFields_rowDecodes (op_of_decodeFields h)
  obtain ⟨hlegal, rfl⟩ := (hdec i).1 h
  exact ⟨hlegal, henc hlegal⟩

/-- Settles O2: joining the fields of the command, which are those the word was split into, gives the word. -/
theorem encodeOfDecode : Obligations.EncodeOfDecode := fun w i h => by
  obtain ⟨-, hfields, hwf⟩ := decodeFields_ok h
  exact ⟨by rw [encode, hfields, joinWord_splitWord], hwf⟩

/-- Settles O3: the masked word is the match when opcode and must-be-zero bits are the row's, and then the row
decodes the word. -/
theorem legalWords : Obligations.LegalWords := by
  intro w j
  have hcount : Legal j (splitWord w) ↔ MbzZero (Spec.opcodeRow j).2 (splitWord w) ∧
      ((Spec.opcodeRow j).1 = 0x08000000 ∨ (Spec.opcodeRow j).1 = 0x09000000 → w.extractLsb' 3 7 ≠ 0) := by
    rw [← hasCount_iff]; rfl
  rw [masked_eq_match_iff, and_assoc, ← hcount]
  constructor
  · rintro ⟨i, hd, hrow⟩
    have hop : (encodeFields i).op = (encodeFields j).op := by
      have hmatch := splitWord_match i
      rw [hrow, splitWord_match j] at hmatch
      exact (congrArg Fields.op hmatch).symm
    obtain ⟨hlegal, -⟩ := decodeFields_ok hd
    refine ⟨(op_of_decodeFields hd).trans hop, ?_⟩
    rwa [Legal, hasCount, hrow] at hlegal
  · rintro ⟨hop, hlegal⟩
    obtain ⟨i, hdec, hrow, -⟩ := decodeFields_rowDecodes hop
    exact ⟨i, (hdec i).2 ⟨hlegal, rfl⟩, hrow⟩

/-! ## Worked words (R100) -/

theorem decode_of_encode_eq {w : Word} {i : Instr} (h : encode i = w) (hwf : i.wf = true) :
    decode w = .ok i := h ▸ decodeOfEncode i hwf

/-- Settles O4: each legal word is the encoding of its command; each illegal word has its decoding error. -/
theorem workedEncodings : Obligations.WorkedEncodings := by
  have illegal {w : Word} {e : DecodeError} (h : decode w = .error e) : ∀ i, decode w ≠ .ok i :=
    fun i hi => nomatch h.symm.trans hi
  constructor
  · and_intros <;> exact decode_of_encode_eq (by decide) rfl
  · simp only [List.forall_mem_cons]
    exact ⟨illegal (e := .unknownOpcode) rfl, illegal (e := .unknownOpcode) rfl,
      illegal (e := .mbzNonzero) rfl, illegal (e := .mbzNonzero) rfl, illegal (e := .mbzNonzero) rfl,
      illegal (e := .mbzNonzero) rfl, illegal (e := .mbzNonzero) rfl, illegal (e := .countZero) rfl,
      illegal (e := .mbzNonzero) rfl, List.forall_mem_nil _⟩

/-! ## What the sequencer does with the accepted word (R92, R93, R411) -/

theorem sequence_idle {s : State} (hb : s.busy = false) : sequence s = .next s := by
  rw [sequence, hb]; rfl

/-- R385: a word that is no command enters the fault state with code 1. -/
theorem sequence_illegal {s : State} (hb : s.busy = true) (hd : ∀ i, decode s.pend ≠ .ok i) :
    sequence s = .next (faulted s 1) := by
  rw [sequence, if_pos hb, execPending]
  cases h : decode s.pend with
  | ok i => exact absurd h (hd i)
  | error e => rfl

/-- Settles O5: the step is the sequencer's, which executes the pending command or idles. -/
theorem stepRunsDecoded : Obligations.StepRunsDecoded := fun _ hcheck =>
  ⟨fun _ hb hd =>
    ⟨fun h => (step_of_no_inputs hcheck h).trans (sequence_busy hb hd),
      fun _ h => (step_of_inputs hcheck h).trans (sequence_busy hb hd)⟩,
    fun hb =>
    ⟨fun h => (step_of_no_inputs hcheck h).trans (sequence_idle hb),
      fun _ h => (step_of_inputs hcheck h).trans (sequence_idle hb)⟩⟩

/-- Settles O6: the step is the sequencer's, which raises ILLEGAL. -/
theorem illegalWordFaults : Obligations.IllegalWordFaults := fun _ hcheck hb hd =>
  ⟨fun h => (step_of_no_inputs hcheck h).trans (sequence_illegal hb hd),
    fun _ h => (step_of_inputs hcheck h).trans (sequence_illegal hb hd)⟩

/-! ## The checks before a command's own rule (R92, R372) -/

/-- What the operand table says a command needs. -/
def tableNeeds (c : Config) (i : Instr) : Needs where
  feature := Spec.present c i
  dst := (Spec.operands i).writes.map fun sp => (sp.1.toNat, sp.2)
  src := readSpans i
  regs := (Spec.operands i).readsK
  banks := (Spec.operands i).readsCM

theorem tableNeeds_spansFit (c : Config) (i : Instr) :
    (∀ sp ∈ (tableNeeds c i).dst ++ (tableNeeds c i).src, sp.1 + sp.2 ≤ 128) ↔ Spec.SpansFit i := by
  simp only [tableNeeds, readSpans, ← List.map_append, List.forall_mem_map, Spec.SpansFit]

theorem tableNeeds_sourcesValid (s : State) (i : Instr) :
    sourcesValid (tableNeeds s.cfg i) s = true ↔ Spec.SourcesValid s i := by
  simp only [sourcesValid_iff, tableNeeds, readSpans, List.forall_mem_map, Spec.SourcesValid]

/-- The outcome is that of a command with these needs, whatever its own rule is. -/
def Checked (n : Needs) (s : State) (o : Out) : Prop := ∃ act, o = command n act s

section
variable (s : State) (rd rs1 rs2 : CellIdx) (k : KIdx)

theorem command_checked (n : Needs) (act : State → Result) : Checked n s (command n act s) := ⟨act, rfl⟩

theorem rawOp2_checked (op : Config → Nat → Nat → Nat) :
    Checked { dst := [(rd.toNat, 1)], src := [(rs1.toNat, 1), (rs2.toNat, 1)] } s (rawOp2 op rd rs1 rs2 s) :=
  command_checked _ _ _

theorem rawOp1_checked (op : Config → Nat → Nat) :
    Checked { dst := [(rd.toNat, 1)], src := [(rs1.toNat, 1)] } s (rawOp1 op rd rs1 s) :=
  command_checked _ _ _

theorem winOp_checked (feature : Bool) (tab : Vector (BitVec 32) 22) (kd : KIdx) :
    Checked { feature := feature, regs := [k] } s (winOp feature tab kd k s) := command_checked _ _ _

section
variable {feature : Bool} {span1 span2 sp1 sp2 : Nat × Nat} (h1 : span1 = sp1)
include h1

theorem testOp1_checked (test : State → Bool) :
    Checked { feature := feature, src := [sp1] } s (testOp1 feature span1 test s) :=
  h1 ▸ command_checked _ _ _

theorem testOp2_checked (h2 : span2 = sp2) (test : State → Bool) :
    Checked { feature := feature, src := [sp1, sp2] } s (testOp2 feature span1 span2 test s) :=
  h1 ▸ h2 ▸ command_checked _ _ _

end

section
variable {α : Type} {feature : Bool} {K : Fld α} {n : Nat} (hK : Occupies K n)
include hK

theorem elemSpan_eq (b : CellIdx) : elemSpan K b = (b.toNat, n) := by rw [elemSpan, hK.arity]

theorem affSpan_eq (b : CellIdx) : affSpan K b = (b.toNat, 2 * n) := by rw [affSpan, hK.arity]

theorem ptSpan_eq (b : CellIdx) : ptSpan K b = (b.toNat, 3 * n) := by rw [ptSpan, hK.arity]

theorem elemOp2_checked (op : α → α → α) :
    Checked { feature := feature, dst := [(rd.toNat, n)], src := [(rs1.toNat, n), (rs2.toNat, n)] } s
      (elemOp2 feature K op rd rs1 rs2 s) := by
  simp only [← elemSpan_eq hK]
  exact command_checked _ _ _

theorem elemOp1?_checked (op : α → Except FaultCode α) :
    Checked { feature := feature, dst := [(rd.toNat, n)], src := [(rs1.toNat, n)] } s
      (elemOp1? feature K op rd rs1 s) := by
  simp only [← elemSpan_eq hK]
  exact command_checked _ _ _

theorem elemOp1_checked (op : α → α) :
    Checked { feature := feature, dst := [(rd.toNat, n)], src := [(rs1.toNat, n)] } s
      (elemOp1 feature K op rd rs1 s) := elemOp1?_checked s rd rs1 hK _

theorem elemOpK_checked (op : α → Nat → α) :
    Checked { feature := feature, dst := [(rd.toNat, n)], src := [(rs1.toNat, n)], regs := [k] } s
      (elemOpK feature K op rd rs1 k s) := by
  simp only [← elemSpan_eq hK]
  exact command_checked _ _ _

end

section
variable {α : Type} {E : Curve α} {n : Nat} (hE : Occupies E.K n)
include hE

theorem ptOp1_checked (op : Pt α → Pt α) :
    Checked { feature := E.feature, dst := [(rd.toNat, 3 * n)], src := [(rs1.toNat, 3 * n)] } s
      (ptOp1 E op rd rs1 s) := by
  simp only [← ptSpan_eq hE]
  exact command_checked _ _ _

theorem ptOp2_checked (op : Pt α → Pt α → Pt α) :
    Checked { feature := E.feature, dst := [(rd.toNat, 3 * n)], src := [(rs1.toNat, 3 * n), (rs2.toNat, 3 * n)] }
      s (ptOp2 E op rd rs1 rs2 s) := by
  simp only [← ptSpan_eq hE]
  exact command_checked _ _ _

theorem ptOpMixed_checked (op : Pt α → Aff α → Pt α) :
    Checked { feature := E.feature, dst := [(rd.toNat, 3 * n)], src := [(rs1.toNat, 3 * n), (rs2.toNat, 2 * n)] }
      s (ptOpMixed E op rd rs1 rs2 s) := by
  simp only [← ptSpan_eq hE, ← affSpan_eq hE]
  exact command_checked _ _ _

theorem ptOpAffine_checked [DecidableEq α] :
    Checked { feature := E.feature, dst := [(rd.toNat, 2 * n)], src := [(rs1.toNat, 3 * n)] } s
      (ptOpAffine E rd rs1 s) := by
  simp only [← ptSpan_eq hE, ← affSpan_eq hE]
  exact command_checked _ _ _

theorem ptConst_checked (P : Pt α) :
    Checked { feature := E.feature, dst := [(rd.toNat, 3 * n)] } s (ptConst E P rd s) := by
  simp only [← ptSpan_eq hE]
  exact command_checked _ _ _

theorem ptOpK_checked (op : Pt α → Nat → Pt α) :
    Checked { feature := E.feature, dst := [(rd.toNat, 3 * n)], src := [(rs1.toNat, 3 * n)], regs := [k] } s
      (ptOpK E op rd rs1 k s) := by
  simp only [← ptSpan_eq hE]
  exact command_checked _ _ _

end

/-- PAIR and PAIRR. -/
theorem pairOp_checked (post : Config → F12 → Except FaultCode F12) :
    Checked { feature := s.cfg.hasPair, dst := [(rd.toNat, 12)], src := [(rs1.toNat, 3), (rs2.toNat, 6)] } s
      (pairOp post rd rs1 rs2 s) := by
  rw [← elemSpan_eq (occupies_fp12 s.cfg), ← ptSpan_eq (occupies_fp s.cfg), ← ptSpan_eq (occupies_fp2 s.cfg)]
  exact command_checked _ _ _

theorem execPrecomp_checked (b : BankIdx) :
    Checked { feature := s.cfg.hasPair, src := [(rs1.toNat, 6)] } s (execPrecomp b rs1 s) := by
  rw [← ptSpan_eq (occupies_fp2 s.cfg)]
  exact command_checked _ _ _

theorem execMiller_checked (b : BankIdx) :
    Checked { feature := s.cfg.hasPair, dst := [(rd.toNat, 12)], src := [(rs1.toNat, 2)], banks := [b] } s
      (execMiller rd rs1 b s) := by
  rw [← elemSpan_eq (occupies_fp12 s.cfg), ← affSpan_eq (occupies_fp s.cfg)]
  exact command_checked _ _ _

theorem execMiller2_checked :
    Checked
      { feature := s.cfg.hasPair, dst := [(rd.toNat, 12)], src := [(rs1.toNat, 2), (rs2.toNat, 2)],
        banks := [0, 1] } s (execMiller2 rd rs1 rs2 s) := by
  simp only [← elemSpan_eq (occupies_fp12 s.cfg), ← affSpan_eq (occupies_fp s.cfg)]
  exact command_checked _ _ _

/-- An Fp6 command, in either kind of Fp6; without one, its unit is absent and it raises UNSUPP (R96). -/
theorem onFp6_checked {dst src : List (Nat × Nat)} {run : {α : Type} → [DecidableEq α] → Fld α → Out}
    (h : ∀ {α : Type} [DecidableEq α] (K : Fld α), Occupies K 6 →
      Checked { dst := dst, src := src } s (run K)) :
    Checked { feature := decide (s.cfg.f6 ≠ .none), dst := dst, src := src } s (onFp6 s run) := by
  unfold onFp6
  cases s.cfg.f6 with
  | none => exact ⟨.ok, rfl⟩
  | over2 nr6 => exact h _ (occupies_fp6Over2 _ _)
  | over3 nr6 => exact h _ (occupies_fp6Over3 _ _)

end

/-- Every instruction is a command that needs what the operand table says. -/
theorem exec_checked (i : Instr) (s : State) : Checked (tableNeeds s.cfg i) s (exec i s) := by
  have h1 := occupies_fp s.cfg
  have h2 := occupies_fp2 s.cfg
  have h3 := occupies_fp3 s.cfg
  have h12 := occupies_fp12 s.cfg
  unfold exec
  cases i with
  | nop | ldfe | stfe | ldraw | straw | ldk | stk | ldki | mov | zero | one => exact command_checked _ _ _
  | mmul | bmul => exact rawOp2_checked _ _ _ _ _
  | tomont | frommont | ffrob => exact rawOp1_checked _ _ _ _
  | fadd | fsub | fmul => exact elemOp2_checked _ _ _ _ h1 _
  | f2add | f2sub | f2mul => exact elemOp2_checked _ _ _ _ h2 _
  | f3add | f3sub | f3mul => exact elemOp2_checked _ _ _ _ h3 _
  | f12add | f12sub | f12mul => exact elemOp2_checked _ _ _ _ h12 _
  | fsqr | fneg => exact elemOp1_checked _ _ _ h1 _
  | f2sqr | f2neg | f2frob => exact elemOp1_checked _ _ _ h2 _
  | f3sqr | f3neg | f3frob => exact elemOp1_checked _ _ _ h3 _
  | f12sqr | f12neg | f12frob | f12uinv | f12csqr | fexph | expz => exact elemOp1_checked _ _ _ h12 _
  | finv | fsqrt => exact elemOp1?_checked _ _ _ h1 _
  | f2inv => exact elemOp1?_checked _ _ _ h2 _
  | f3inv => exact elemOp1?_checked _ _ _ h3 _
  | f12inv | fexpe | fexp => exact elemOp1?_checked _ _ _ h12 _
  | fpow => exact elemOpK_checked _ _ _ _ h1 _
  | f12cexp => exact elemOpK_checked _ _ _ _ h12 _
  | fisz | fissq | fsign | fbit => exact testOp1_checked _ rfl _
  | feq | flt => exact testOp2_checked _ rfl rfl _
  | f2isz => exact testOp1_checked _ (elemSpan_eq h2 _) _
  | f3isz => exact testOp1_checked _ (elemSpan_eq h3 _) _
  | f12isz => exact testOp1_checked _ (elemSpan_eq h12 _) _
  | f2eq => exact testOp2_checked _ (elemSpan_eq h2 _) (elemSpan_eq h2 _) _
  | f3eq => exact testOp2_checked _ (elemSpan_eq h3 _) (elemSpan_eq h3 _) _
  | f12eq => exact testOp2_checked _ (elemSpan_eq h12 _) (elemSpan_eq h12 _) _
  | f6add | f6sub | f6mul => exact onFp6_checked _ fun _ h6 => elemOp2_checked _ _ _ _ h6 _
  | f6sqr | f6neg | f6frob => exact onFp6_checked _ fun _ h6 => elemOp1_checked _ _ _ h6 _
  | f6inv => exact onFp6_checked _ fun _ h6 => elemOp1?_checked _ _ _ h6 _
  | f6isz => exact onFp6_checked _ fun _ h6 => testOp1_checked _ (elemSpan_eq h6 _) _
  | f6eq => exact onFp6_checked _ fun _ h6 => testOp2_checked _ (elemSpan_eq h6 _) (elemSpan_eq h6 _) _
  | pdbl | pneg => exact ptOp1_checked _ _ _ (E := g1 s.cfg) h1 _
  | padd => exact ptOp2_checked _ _ _ _ (E := g1 s.cfg) h1 _
  | pmadd => exact ptOpMixed_checked _ _ _ _ (E := g1 s.cfg) h1 _
  | paff => exact ptOpAffine_checked _ _ _ (E := g1 s.cfg) h1
  | pzero | pone => exact ptConst_checked _ _ (E := g1 s.cfg) h1 _
  | psmul | psmulw => exact ptOpK_checked _ _ _ _ (E := g1 s.cfg) h1 _
  | pisid | piswf => exact testOp1_checked _ (ptSpan_eq h1 _) _
  | peq => exact testOp2_checked _ (ptSpan_eq h1 _) (ptSpan_eq h1 _) _
  | qdbl | qneg => exact ptOp1_checked _ _ _ (E := g2 s.cfg) h2 _
  | qadd => exact ptOp2_checked _ _ _ _ (E := g2 s.cfg) h2 _
  | qmadd => exact ptOpMixed_checked _ _ _ _ (E := g2 s.cfg) h2 _
  | qaff => exact ptOpAffine_checked _ _ _ (E := g2 s.cfg) h2
  | qzero | qone => exact ptConst_checked _ _ (E := g2 s.cfg) h2 _
  | qsmul | qsmulw => exact ptOpK_checked _ _ _ _ (E := g2 s.cfg) h2 _
  | qisid | qiswf => exact testOp1_checked _ (ptSpan_eq h2 _) _
  | qeq => exact testOp2_checked _ (ptSpan_eq h2 _) (ptSpan_eq h2 _) _
  | winsel1 | winsel2 => exact winOp_checked _ _ _ _ _
  | precomp => exact execPrecomp_checked _ _ _
  | miller => exact execMiller_checked _ _ _ _
  | miller2 => exact execMiller2_checked _ _ _ _
  | pair | pairr => exact pairOp_checked _ _ _ _ _

section
variable {n : Needs} {s : State} (hf : n.feature = true)

theorem checkNeeds_unsupp (h : n.feature = false) : checkNeeds n s = some .unsupp := if_pos h

include hf

theorem checkNeeds_regrange (h : ¬∀ sp ∈ n.dst ++ n.src, sp.1 + sp.2 ≤ 128) :
    checkNeeds n s = some .regrange := by
  rw [← spansFit_iff, Bool.not_eq_true] at h
  rw [checkNeeds, if_neg (by simp [hf]), if_pos h]

theorem checkNeeds_uninit (h : ∀ sp ∈ n.dst ++ n.src, sp.1 + sp.2 ≤ 128) (hv : ¬sourcesValid n s = true) :
    checkNeeds n s = some .uninit := by
  rw [← spansFit_iff] at h
  rw [Bool.not_eq_true] at hv
  rw [checkNeeds, if_neg (by simp [hf]), if_neg (by simp [h]), if_pos hv]

end

/-- Settles O12: the first check that fails, on the needs that the operand table gives. -/
theorem checkOrder : Obligations.CheckOrder := by
  intro s i
  obtain ⟨act, hexec⟩ := exec_checked i s
  rw [hexec, ← tableNeeds_spansFit s.cfg i, ← tableNeeds_sourcesValid s i]
  exact ⟨fun h => command_check (checkNeeds_unsupp h), fun hf h => command_check (checkNeeds_regrange hf h),
    fun hf h hv => command_check (checkNeeds_uninit hf h hv)⟩

end Sys2Proof.Machine

/-! PROOFS. Data movement (40_data_movement.md): the bytes of XMEM as an integer, and what the loads, the stores,
the register moves and the cell moves write. -/

namespace Sys2Proof.Machine

/-! ## The bytes of XMEM as an integer (R62, R64) -/

theorem fromBytesLE_lt (bs : List Byte) : fromBytesLE bs < 256 ^ bs.length := by
  induction bs with
  | nil => simp [fromBytesLE]
  | cons b bs ih =>
    have hb : b.toNat < 256 := b.isLt
    rw [fromBytesLE, List.length_cons, Nat.pow_succ]
    omega

theorem fromBytes_lt (big : Bool) (bs : List Byte) : fromBytes big bs < 256 ^ bs.length := by
  cases big with
  | false => exact fromBytesLE_lt bs
  | true => simpa [fromBytes] using fromBytesLE_lt bs.reverse

/-- Position by position: byte `i` counts `256 ^ i`. -/
theorem fromBytesLE_eq_sum (bs : List Byte) :
    fromBytesLE bs = ∑ i ∈ Finset.range bs.length, (bs.getD i 0).toNat * 256 ^ i := by
  induction bs with
  | nil => rfl
  | cons b bs ih =>
    rw [fromBytesLE, ih, List.length_cons, Finset.sum_range_succ', Finset.mul_sum, Nat.add_comm]
    simp [pow_succ', mul_left_comm]

theorem memReadList_getD (m : List Host.Cell) (a : Nat) {i n : Nat} (hi : i < n) :
    (memReadList m a n).getD i 0 = memRead m (a + i) := by
  induction n generalizing a i with
  | zero => omega
  | succ n ih =>
    cases i with
    | zero => rfl
    | succ i => rw [memReadList, List.getD_cons_succ, ih _ (by omega), Nat.add_right_comm, Nat.add_assoc]

/-- `FromBytes` of the bytes that a transfer reads is the integer of Safety.lean, in either byte order. -/
theorem fromBytes_memReadList (s : State) (a n : Nat) :
    fromBytes (endianBig s) (memReadList s.xmem a n) = bytesValue s a n := by
  unfold fromBytes bytesValue endianBig
  split
  · rw [fromBytesLE_eq_sum, List.length_reverse, memReadList_length, ← Finset.sum_range_reflect]
    refine Finset.sum_congr rfl fun i hi => ?_
    have hin : i < n := Finset.mem_range.1 hi
    rw [List.getD_reverse _ (by rw [memReadList_length]; omega), memReadList_length,
      memReadList_getD _ _ (by omega), show n - 1 - (n - 1 - i) = i by omega]
  · rw [fromBytesLE_eq_sum, memReadList_length]
    exact Finset.sum_congr rfl fun i hi => by rw [memReadList_getD _ _ (Finset.mem_range.1 hi)]

theorem bytesValue_lt (s : State) (a n : Nat) : bytesValue s a n < 256 ^ n := by
  have h := fromBytes_lt (endianBig s) (memReadList s.xmem a n)
  rwa [fromBytes_memReadList, memReadList_length] at h

/-- The bytes of a write that is inside XMEM are read back. -/
theorem memReadList_memWriteList {m : List Host.Cell} (h : memWf m = true) {a : Nat} {vs : List Byte}
    (ha : a + vs.length ≤ Config.xbytes) : memReadList (memWriteList m a vs) a vs.length = vs := by
  refine List.ext_getElem (memReadList_length _ _ _) fun i _ hi => ?_
  rw [← List.getD_eq_getElem _ 0, memReadList_getD _ _ hi, memRead_memWriteList h ha,
    if_pos (by omega), Nat.add_sub_cancel_left, List.getD_eq_getElem _ _ hi]

/-- `ToBytes(v, n)`, written inside XMEM, reads as `v` (R64). -/
theorem bytesValue_memWriteList {s : State} (h : memWf s.xmem = true) {a n v : Nat} (ha : a + n ≤ 4096)
    (hv : v < 256 ^ n) :
    bytesValue { s with xmem := memWriteList s.xmem a (toBytes (endianBig s) v n) } a n = v := by
  have hread := memReadList_memWriteList h (a := a) (vs := toBytes (endianBig s) v n)
    (by rwa [toBytes_length])
  rw [toBytes_length] at hread
  rw [← fromBytes_memReadList, hread]
  exact (fromBytes_toBytes _ _ _).trans (Nat.mod_eq_of_lt hv)

/-- A residue fits in `FEBYTES` bytes (R10). -/
theorem lt_pow_feBytes {c : Config} (h : c.WF) {v : Nat} (hv : v < c.p) : v < 256 ^ feBytes c := by
  have hbits : c.modbits = bitlen c.p := (modulus_facts h.2).2.2.1
  calc v < c.p := hv
    _ < 2 ^ c.modbits := hbits ▸ lt_two_pow_bitlen c.p
    _ ≤ 2 ^ (8 * feBytes c) := Nat.pow_le_pow_right Nat.two_pos (by unfold feBytes; omega)
    _ = 256 ^ feBytes c := Nat.pow_mul 2 8 _

/-- 96 bytes hold 768 bits. -/
theorem pow_kbytes : 256 ^ Config.kbytes = 2 ^ 768 := by
  rw [show 768 = 8 * Config.kbytes from rfl, Nat.pow_mul]

theorem kReg_lt (s : State) (k : KIdx) : kReg s k < 256 ^ Config.kbytes := by
  rw [pow_kbytes, kReg]
  exact (s.k[k.toNat]).isLt

/-! ## What a load answers (R62, R67) -/

section
variable {s : State}

theorem xmemLoad_past {a n : Nat} (h : 4096 < a + n) : xmemLoad s a n = .error .xaddr := by
  obtain ⟨-, hl⟩ | ⟨hle, -⟩ := xmemLoad_cases s a n
  · exact hl
  · omega

theorem xmemLoad_inside {a n : Nat} (h : a + n ≤ 4096) : xmemLoad s a n = .ok (bytesValue s a n) := by
  obtain ⟨hlt, -⟩ | ⟨-, hl⟩ := xmemLoad_cases s a n
  · omega
  · rw [hl, fromBytes_memReadList]

variable {addr : XAddr}

theorem loadBelowP_past (h : 4096 < addr.toNat + feBytes s.cfg) : loadBelowP s addr = .error .xaddr := by
  rw [loadBelowP, xmemLoad_past h]

variable (h : addr.toNat + feBytes s.cfg ≤ 4096)
include h

theorem loadBelowP_range (hv : s.cfg.p ≤ bytesValue s addr.toNat (feBytes s.cfg)) :
    loadBelowP s addr = .error .range := by
  rw [loadBelowP, xmemLoad_inside h]
  exact if_pos hv

theorem loadBelowP_below (hv : bytesValue s addr.toNat (feBytes s.cfg) < s.cfg.p) :
    loadBelowP s addr = .ok (bytesValue s addr.toNat (feBytes s.cfg)) := by
  rw [loadBelowP, xmemLoad_inside h]
  exact if_neg (by omega)

end

/-! ## Operands that pass the checks (R15, R23, R92) -/

section
variable {s : State}

theorem checkNeeds_eq_none {n : Needs} (hf : n.feature = true) (hdst : ∀ sp ∈ n.dst, sp.1 + sp.2 ≤ 128)
    (hsrc : ∀ sp ∈ n.src, sp.1 + sp.2 ≤ 128 ∧ ∀ i < sp.2, cellValid s (sp.1 + i) = true)
    (hregs : ∀ r ∈ n.regs, kValid s r = true) (hbanks : ∀ b ∈ n.banks, bankValid s b = true) :
    checkNeeds n s = none :=
  (checkNeeds_none_iff n s).2
    ⟨hf, List.forall_mem_append.2 ⟨hdst, fun sp hsp => (hsrc sp hsp).1⟩,
      (sourcesValid_iff n s).2 ⟨fun sp hsp => (hsrc sp hsp).2, hregs, hbanks⟩⟩

theorem checkNeeds_nothing : checkNeeds {} s = none := rfl

theorem checkNeeds_reg {k : KIdx} (h : kValid s k = true) : checkNeeds { regs := [k] } s = none :=
  checkNeeds_eq_none rfl (List.forall_mem_nil _) (List.forall_mem_nil _) (List.forall_mem_singleton.2 h)
    (List.forall_mem_nil _)

variable {rd rs1 : CellIdx} {n m : Nat}

theorem checkNeeds_src (h : Source s rs1 n) : checkNeeds { src := [(rs1.toNat, n)] } s = none :=
  checkNeeds_eq_none rfl (List.forall_mem_nil _) (List.forall_mem_singleton.2 h) (List.forall_mem_nil _)
    (List.forall_mem_nil _)

theorem checkNeeds_dst (h : Dest rd n) : checkNeeds { dst := [(rd.toNat, n)] } s = none :=
  checkNeeds_eq_none rfl (List.forall_mem_singleton.2 h) (List.forall_mem_nil _) (List.forall_mem_nil _)
    (List.forall_mem_nil _)

theorem checkNeeds_dst_src (hd : Dest rd n) (hs : Source s rs1 m) :
    checkNeeds { dst := [(rd.toNat, n)], src := [(rs1.toNat, m)] } s = none :=
  checkNeeds_eq_none rfl (List.forall_mem_singleton.2 hd) (List.forall_mem_singleton.2 hs)
    (List.forall_mem_nil _) (List.forall_mem_nil _)

/-- Every cell index is a destination of one cell. -/
theorem dest_one (b : CellIdx) : Dest b 1 := b.isLt

end

/-! ## What each shape of data movement does once its operands pass -/

section
variable {s : State} {n : Needs} (hn : checkNeeds n s = none)
include hn

theorem command_map_error {α : Type} {rule : State → Except FaultCode α} {write : State → α → State}
    {c : FaultCode} (hr : rule s = .error c) :
    command n (fun s => (rule s).map (write s)) s = .next (faulted s (faultCode c)) :=
  command_error hn (by rw [hr]; rfl)

theorem command_map_ok {α : Type} {rule : State → Except FaultCode α} {write : State → α → State} {a : α}
    (hr : rule s = .ok a) :
    command n (fun s => (rule s).map (write s)) s = .next (complete (write s a)) :=
  command_ok hn (by rw [hr]; rfl)

/-- A store that passes the end of XMEM. -/
theorem command_store_past {addr : Nat} {count value : State → Nat} (h : 4096 < addr + count s) :
    command n (fun s => xmemStore s addr (count s) (value s)) s = .next (faulted s 5) := by
  obtain ⟨-, hst⟩ | ⟨hle, -⟩ := xmemStore_cases s addr (count s) (value s)
  · exact command_error (act := fun s => xmemStore s addr (count s) (value s)) hn hst
  · omega

/-- A store inside XMEM, of a value that its bytes can hold. -/
theorem command_store_inside {addr : Nat} {count value : State → Nat} (hm : memWf s.xmem = true)
    (h : addr + count s ≤ 4096) (hv : value s < 256 ^ count s) :
    ∃ t, command n (fun s => xmemStore s addr (count s) (value s)) s = .next t ∧
      OnlyMem s t addr (count s) ∧ bytesValue t addr (count s) = value s := by
  obtain ⟨hlt, -⟩ | ⟨-, hst⟩ := xmemStore_cases s addr (count s) (value s)
  · omega
  · have hmem := onlyMem_memWriteList s addr (toBytes (endianBig s) (value s) (count s))
    rw [toBytes_length] at hmem
    exact ⟨_, command_ok hn hst, hmem, bytesValue_memWriteList hm h hv⟩

/-- Raw contents below `p`, written to a destination that fits. -/
theorem command_setCells {rd : CellIdx} {cnt : Nat} {vs : State → List Nat} (hd : Dest rd cnt)
    (hlen : (vs s).length = cnt) (hv : ∀ v ∈ vs s, v < s.cfg.p) :
    ∃ t, command n (fun s => .ok (setCells s rd.toNat (vs s))) s = .next t ∧ OnlyCells s t rd cnt ∧
      ∀ i < cnt, rawCell t (rd.toNat + i) = (vs s).getD i 0 := by
  subst hlen
  refine ⟨_, command_ok hn rfl, onlyCells_setCells s rd (vs s) hd hv, fun i hi => ?_⟩
  rw [rawCell_complete, rawCell_setCells _ _ _ hd, if_pos (by omega), Nat.add_sub_cancel_left]

end

section
variable {s : State} {f : CellIdx}

theorem onlyCells_setCell {v : Nat} (hv : v < s.cfg.p) : OnlyCells s (complete (setCell s f.toNat v)) f 1 :=
  onlyCells_setCells s f [v] (dest_one f) (List.forall_mem_singleton.2 hv)

theorem rawCell_setCell_self (s : State) (f : CellIdx) (v : Nat) :
    rawCell (setCell s f.toNat v) f.toNat = v := by
  rw [rawCell_setCell s f.isLt, if_pos rfl]

/-- A residue written through `rep` is the canonical value of the cell (R12, R13). -/
theorem canon_setCell_rep (hwf : s.cfg.WF) {v : Nat} (hv : v < s.cfg.p) :
    canon (setCell s f.toNat (rep s.cfg v)) f.toNat = v := by
  rw [canon, rawCell_setCell_self]
  exact val_rep hwf hv

theorem kReg_setK_self (s : State) (k : KIdx) {v : Nat} (hv : v < 256 ^ Config.kbytes) :
    kReg (setK s k v) k = v := by
  rw [pow_kbytes] at hv
  rw [kReg_setK, if_pos rfl, Nat.mod_eq_of_lt hv]

theorem rawCells_getD (s : State) (b : Nat) {i n : Nat} (hi : i < n) :
    (rawCells s b n).getD i 0 = rawCell s (b + i) := by
  induction n generalizing b i with
  | zero => omega
  | succ n ih =>
    cases i with
    | zero => rfl
    | succ i => rw [rawCells, List.getD_cons_succ, ih _ (by omega), Nat.add_right_comm, Nat.add_assoc]

end

/-! ## The commands, one by one (R121 to R131) -/

section
variable {s : State} {f : CellIdx} {addr : XAddr}

theorem execLdfe_error {c : FaultCode} (h : loadBelowP s addr = .error c) :
    execLdfe f addr s = .next (faulted s (faultCode c)) := command_map_error (checkNeeds_dst (dest_one f)) h

theorem execLdraw_error {c : FaultCode} (h : loadBelowP s addr = .error c) :
    execLdraw f addr s = .next (faulted s (faultCode c)) := command_map_error (checkNeeds_dst (dest_one f)) h

theorem execLdfe_ok (hwf : s.cfg.WF) {v : Nat} (h : loadBelowP s addr = .ok v) :
    ∃ t, execLdfe f addr s = .next t ∧ OnlyCells s t f 1 ∧ canon t f.toNat = v :=
  ⟨_, command_map_ok (checkNeeds_dst (dest_one f)) h, onlyCells_setCell (rep_lt hwf (loadBelowP_lt h)),
    canon_setCell_rep hwf (loadBelowP_lt h)⟩

theorem execLdraw_ok {v : Nat} (h : loadBelowP s addr = .ok v) :
    ∃ t, execLdraw f addr s = .next t ∧ OnlyCells s t f 1 ∧ rawCell t f.toNat = v :=
  ⟨_, command_map_ok (checkNeeds_dst (dest_one f)) h, onlyCells_setCell (loadBelowP_lt h),
    rawCell_setCell_self _ _ _⟩

variable (hf : Source s f 1)
include hf

theorem execStfe_past (h : 4096 < addr.toNat + feBytes s.cfg) : execStfe f addr s = .next (faulted s 5) :=
  command_store_past (checkNeeds_src hf) h

theorem execStraw_past (h : 4096 < addr.toNat + feBytes s.cfg) : execStraw f addr s = .next (faulted s 5) :=
  command_store_past (checkNeeds_src hf) h

variable (hs : Sound s) (hm : memWf s.xmem = true) (h : addr.toNat + feBytes s.cfg ≤ 4096)
include hs hm h

theorem execStfe_inside : ∃ t, execStfe f addr s = .next t ∧ OnlyMem s t addr.toNat (feBytes s.cfg) ∧
    bytesValue t addr.toNat (feBytes s.cfg) = canon s f.toNat :=
  command_store_inside (checkNeeds_src hf) hm h (lt_pow_feBytes hs.1 (val_lt hs.1 (rawCell_base_lt hs hf)))

theorem execStraw_inside : ∃ t, execStraw f addr s = .next t ∧ OnlyMem s t addr.toNat (feBytes s.cfg) ∧
    bytesValue t addr.toNat (feBytes s.cfg) = rawCell s f.toNat :=
  command_store_inside (checkNeeds_src hf) hm h (lt_pow_feBytes hs.1 (rawCell_base_lt hs hf))

end

section
variable {s : State} {k : KIdx} {addr : XAddr}

theorem execLdk_past (h : 4096 < addr.toNat + Config.kbytes) : execLdk k addr s = .next (faulted s 5) :=
  command_map_error (c := .xaddr) checkNeeds_nothing (xmemLoad_past h)

theorem execLdk_inside (h : addr.toNat + Config.kbytes ≤ 4096) :
    ∃ t, execLdk k addr s = .next t ∧ OnlyK s t k ∧ kReg t k = bytesValue s addr.toNat Config.kbytes :=
  ⟨_, command_map_ok checkNeeds_nothing (xmemLoad_inside h), onlyK_setK _ _ _,
    kReg_setK_self s k (bytesValue_lt _ _ _)⟩

theorem execLdki_next (s : State) (k : KIdx) (imm : BitVec 17) :
    ∃ t, execLdki k imm s = .next t ∧ OnlyK s t k ∧ kReg t k = imm.toNat :=
  ⟨_, command_ok checkNeeds_nothing rfl, onlyK_setK _ _ _,
    kReg_setK_self s k (imm.isLt.trans (by decide +kernel))⟩

variable (hk : kValid s k = true)
include hk

theorem execStk_past (h : 4096 < addr.toNat + Config.kbytes) : execStk k addr s = .next (faulted s 5) :=
  command_store_past (checkNeeds_reg hk) h

theorem execStk_inside (hm : memWf s.xmem = true) (h : addr.toNat + Config.kbytes ≤ 4096) :
    ∃ t, execStk k addr s = .next t ∧ OnlyMem s t addr.toNat Config.kbytes ∧
      bytesValue t addr.toNat Config.kbytes = kReg s k :=
  command_store_inside (checkNeeds_reg hk) hm h (kReg_lt s k)

end

section
variable {s : State} {rd rs1 : CellIdx} {cnt : BitVec 7}

theorem execNop_next (s : State) : ∃ t, execNop s = .next t ∧ OnlyCompletes s t :=
  ⟨_, command_ok checkNeeds_nothing rfl, onlyCompletes_complete s⟩

variable (hs : Sound s)
include hs

theorem execMov_next (hd : Dest rd cnt.toNat) (hsrc : Source s rs1 cnt.toNat) :
    ∃ t, execMov rd rs1 cnt s = .next t ∧ OnlyCells s t rd cnt.toNat ∧
      ∀ i < cnt.toNat, rawCell t (rd.toNat + i) = rawCell s (rs1.toNat + i) := by
  have hbelow : ∀ v ∈ rawCells s rs1.toNat cnt.toNat, v < s.cfg.p := fun v hv => by
    obtain ⟨i, hi, rfl⟩ := mem_rawCells hv
    exact rawCell_lt hs hsrc hi
  obtain ⟨t, ht, honly, hraw⟩ := command_setCells (checkNeeds_dst_src hd hsrc)
    (vs := fun s => rawCells s rs1.toNat cnt.toNat) hd (rawCells_length _ _ _) hbelow
  exact ⟨t, ht, honly, fun i hi => (hraw i hi).trans (rawCells_getD s _ hi)⟩

theorem execZero_next (hd : Dest rd cnt.toNat) :
    ∃ t, execZero rd cnt s = .next t ∧ OnlyCells s t rd cnt.toNat ∧
      ∀ i < cnt.toNat, rawCell t (rd.toNat + i) = 0 := by
  have hbelow : ∀ v ∈ List.replicate cnt.toNat 0, v < s.cfg.p := fun v hv =>
    List.eq_of_mem_replicate hv ▸ hs.1.1.pos
  obtain ⟨t, ht, honly, hraw⟩ := command_setCells (checkNeeds_dst hd)
    (vs := fun _ => List.replicate cnt.toNat 0) hd List.length_replicate hbelow
  exact ⟨t, ht, honly, fun i hi => (hraw i hi).trans (List.getD_replicate _ hi)⟩

theorem execOne_next : ∃ t, execOne rd s = .next t ∧ OnlyCells s t rd 1 ∧ canon t rd.toNat = 1 :=
  ⟨_, command_ok (checkNeeds_dst (dest_one rd)) rfl, onlyCells_setCell (rep_lt hs.1 hs.1.1.one_lt),
    canon_setCell_rep hs.1 hs.1.1.one_lt⟩

end

/-! ## The obligations -/

/-- Settles O26: XADDR and RANGE are the two errors of the load; what it answers goes into the cell. -/
theorem loadElement : Obligations.LoadElement := fun _ _ _ hwf =>
  ⟨fun hpast => ⟨execLdfe_error (loadBelowP_past hpast), execLdraw_error (loadBelowP_past hpast)⟩, fun hin =>
    ⟨fun hv => ⟨execLdfe_error (loadBelowP_range hin hv), execLdraw_error (loadBelowP_range hin hv)⟩,
      fun hv => ⟨execLdfe_ok hwf (loadBelowP_below hin hv), execLdraw_ok (loadBelowP_below hin hv)⟩⟩⟩

/-- Settles O27: `FEBYTES` bytes hold every residue, so what a store puts into them reads back. -/
theorem storeElement : Obligations.StoreElement := fun _ _ _ hs hm hf =>
  ⟨fun hpast => ⟨execStfe_past hf hpast, execStraw_past hf hpast⟩,
    fun hin => ⟨execStfe_inside hf hs hm hin, execStraw_inside hf hs hm hin⟩⟩

/-- Settles O28: 96 bytes hold exactly the 768 bits of a register. -/
theorem integerRegisters : Obligations.IntegerRegisters := fun s k addr hm =>
  ⟨execLdk_past, execLdk_inside, fun hk => execStk_past hk, fun hk => execStk_inside hk hm,
    execLdki_next s k addr⟩

/-- Settles O29: MOV, ZERO and ONE each write a list of raw contents below `p`, taken from the state before. -/
theorem nopMoveZeroOne : Obligations.NopMoveZeroOne :=
  ⟨execNop_next, fun _ _ _ _ hs _ => ⟨execMov_next hs, execZero_next hs, execOne_next hs⟩⟩

end Sys2Proof.Machine

/-! PROOFS. The base field (41_modular_fp.md): the two reduction units, the square root of Tonelli and Shanks, and
what the commands on raw contents and on canonical values write. -/

namespace Sys2Proof.Machine

/-! ## The Montgomery reduction (R11, R141) -/

section
variable {c : Config}

/-- `R` is twice the power of 2 below it, as `RBITS` is not 0. -/
theorem montR_eq_two_mul (h : c.WF) : montR c = 2 * 2 ^ (c.rbits - 1) := by
  obtain ⟨-, -, -, hbits, -, hrbits, -⟩ := modulus_facts h.2
  rw [montR, ← Nat.pow_succ']
  congr 1
  omega

/-- `PINV * p = 1` modulo `R`, by Euler: the odd residues modulo `R` are a group of order `R / 2` (R11). -/
theorem montPInv_mul (h : c.WF) : montPInv c * c.p ≡ 1 [MOD montR c] := by
  obtain ⟨hodd, -, -, hbits, -, hrbits, -⟩ := modulus_facts h.2
  have hRpos : 0 < montR c := Nat.two_pow_pos _
  have hcop : c.p.Coprime (montR c) := (Nat.coprime_two_right.2 (Nat.odd_iff.2 hodd)).pow_right _
  have hphi : (montR c).totient = montR c / 2 - 1 + 1 := by
    rw [montR, Nat.totient_prime_pow Nat.prime_two (by omega), ← montR, montR_eq_two_mul h]
    have := Nat.two_pow_pos (c.rbits - 1)
    omega
  calc montPInv c * c.p ≡ c.p ^ (montR c / 2 - 1) * c.p [MOD montR c] := by
        rw [montPInv, powMod_eq hRpos]
        exact (Nat.mod_modEq _ _).mul_right _
    _ = c.p ^ (montR c).totient := by rw [hphi, Nat.pow_succ]
    _ ≡ 1 [MOD montR c] := Nat.ModEq.pow_totient hcop

/-- The multiple of `p` that REDC subtracts agrees with `T` modulo `R`. -/
theorem redc_quotient_mul (h : c.WF) (t : Nat) :
    t % montR c * montPInv c % montR c * c.p ≡ t [MOD montR c] :=
  calc t % montR c * montPInv c % montR c * c.p ≡ t * montPInv c * c.p [MOD montR c] :=
        ((Nat.mod_modEq _ _).trans ((Nat.mod_modEq _ _).mul_right _)).mul_right _
    _ = t * (montPInv c * c.p) := Nat.mul_assoc _ _ _
    _ ≡ t * 1 [MOD montR c] := (montPInv_mul h).mul_left _
    _ = t := Nat.mul_one t

/-- REDC is the exact quotient `u` with `T = u * R + q * p`, brought to a natural number by one addition of `p`. -/
theorem redc_eq (h : c.WF) (t : Nat) : ∃ (q : Nat) (u : Int), q < montR c ∧
    (t : Int) = u * montR c + q * c.p ∧ redc c t = if u < 0 then (u + c.p).toNat else u.toNat := by
  have hRpos : 0 < montR c := Nat.two_pow_pos _
  obtain ⟨u, hu⟩ := (Nat.modEq_iff_dvd.1 (redc_quotient_mul h t))
  refine ⟨_, u, Nat.mod_lt (t % montR c * montPInv c) hRpos, by push_cast at hu ⊢; linarith, ?_⟩
  have hdiv : ((t : Int) - (t % montR c * montPInv c % montR c : Nat) * c.p) / montR c = u := by
    push_cast at hu ⊢
    rw [hu]
    exact Int.mul_ediv_cancel_left _ (by exact_mod_cast hRpos.ne')
  unfold redc
  simp only [hdiv]

/-- The contract of the unit: `REDC(T)` is the residue whose product with `R` is `T` modulo `p` (R141). -/
theorem redc_spec (h : c.WF) {t : Nat} (ht : t < c.p * montR c) :
    redc c t < c.p ∧ redc c t * montR c ≡ t [MOD c.p] := by
  obtain ⟨q, u, hq, htu, hr⟩ := redc_eq h t
  have hRpos : (0 : Int) < montR c := by exact_mod_cast Nat.two_pow_pos c.rbits
  have hppos : (0 : Int) < c.p := by exact_mod_cast h.1.pos
  have hqR : (q : Int) < montR c := by exact_mod_cast hq
  have htR : (t : Int) < c.p * montR c := by exact_mod_cast ht
  have hupper : u < c.p := by nlinarith
  have hlower : -(c.p : Int) < u := by nlinarith
  have hmod : ∀ k : Int, (u + k * c.p) * montR c ≡ t [ZMOD c.p] := fun k => by
    rw [htu]
    exact Int.modEq_iff_dvd.2 ⟨q - k * montR c, by ring⟩
  rw [← Int.natCast_modEq_iff, hr]
  push_cast
  split
  · have := hmod 1
    rw [one_mul] at this
    exact ⟨by omega, by rwa [Int.toNat_of_nonneg (by omega)]⟩
  · have := hmod 0
    rw [zero_mul, add_zero] at this
    exact ⟨by omega, by rwa [Int.toNat_of_nonneg (by omega)]⟩

/-! ## The Barrett reduction (R11, R142) -/

/-- Conditional subtractions, as many as the remainder needs, give the residue. -/
theorem subtractUpTo_eq_mod {p : Nat} (n : Nat) {r : Nat} (h : r < (n + 1) * p) :
    subtractUpTo p n r = r % p := by
  induction n generalizing r with
  | zero =>
    rw [subtractUpTo, Nat.mod_eq_of_lt (by omega)]
  | succ n ih =>
    rw [subtractUpTo]
    split
    · next hle =>
      rw [ih (by rw [Nat.succ_mul] at h; omega), Nat.mod_eq_sub_mod hle]
    · next hlt => exact (Nat.mod_eq_of_lt (by omega)).symm

/-- The two roundings of the Barrett quotient, with `A = 2^(MODBITS-1)` and `B = 2^(MODBITS+1)`: it is never above
the true quotient, and less than 3 below it. -/
theorem barrett_quotient_bounds {p A B x : Nat} (hA : 0 < A) (hAp : A ≤ p) (hpA : p < 2 * A) (hB : B = 4 * A)
    (hx : x < p ^ 2) :
    x / A * (A * B / p) / B * p ≤ x ∧ x < (x / A * (A * B / p) / B + 3) * p := by
  have hBpos : 0 < B := by omega
  have hxA : x / A * A ≤ x := Nat.div_mul_le_self x A
  have hxA' : x < A * (x / A + 1) := Nat.lt_mul_div_succ x hA
  have hmu : A * B / p * p ≤ A * B := Nat.div_mul_le_self _ _
  have hmu' : A * B < p * (A * B / p + 1) := Nat.lt_mul_div_succ _ (by omega)
  have hq : x / A * (A * B / p) / B * B ≤ x / A * (A * B / p) := Nat.div_mul_le_self _ _
  have hq' : x / A * (A * B / p) < B * (x / A * (A * B / p) / B + 1) := Nat.lt_mul_div_succ _ hBpos
  generalize x / A * (A * B / p) / B = q at *
  generalize A * B / p = m at *
  generalize x / A = h at *
  have hhB : h ≤ B := by
    have : h * A < B * A := by nlinarith
    exact (Nat.lt_of_mul_lt_mul_right this).le
  have hmB : m ≤ B := by
    have : m * A ≤ B * A := by nlinarith
    exact Nat.le_of_mul_le_mul_right this hA
  constructor
  · refine le_trans (Nat.le_of_mul_le_mul_right ?_ (Nat.mul_pos hA hBpos)) hxA
    calc q * p * (A * B) = q * B * (p * A) := by ring
      _ ≤ h * m * (p * A) := Nat.mul_le_mul_right _ hq
      _ = h * A * (m * p) := by ring
      _ ≤ h * A * (A * B) := Nat.mul_le_mul_left _ hmu
  · refine Nat.lt_of_mul_lt_mul_right (a := B) ?_
    calc x * B < A * (h + 1) * B := Nat.mul_lt_mul_of_pos_right hxA' hBpos
      _ = (h + 1) * (A * B) := by ring
      _ ≤ (h + 1) * (p * (m + 1)) := Nat.mul_le_mul_left _ hmu'.le
      _ = (h * m + 1 + h + m) * p := by ring
      _ ≤ (B * (q + 1) + B + B) * p := Nat.mul_le_mul_right _ (by omega)
      _ = (q + 3) * p * B := by ring

/-- The powers of 2 around `p` (R9). -/
theorem modbits_bounds (h : c.WF) :
    2 ^ (c.modbits - 1) ≤ c.p ∧ c.p < 2 * 2 ^ (c.modbits - 1) ∧
      2 ^ (c.modbits + 1) = 4 * 2 ^ (c.modbits - 1) := by
  obtain ⟨-, -, hbits, hpos, -⟩ := modulus_facts h.2
  obtain ⟨n, hn⟩ : ∃ n, c.modbits = n + 1 := ⟨c.modbits - 1, by omega⟩
  have hlow := two_pow_bitlen_le h.1.ne_zero
  have hhigh := lt_two_pow_bitlen c.p
  rw [← hbits, hn] at hlow hhigh
  rw [hn]
  exact ⟨hlow, by rwa [← Nat.pow_succ'], by rw [Nat.add_sub_cancel]; ring⟩

/-- The reduction of R142 is the residue. -/
theorem barrettReduce_eq (h : c.WF) {x : Nat} (hx : x < c.p ^ 2) : barrettReduce c x = x % c.p := by
  obtain ⟨hAp, hpA, hB⟩ := modbits_bounds h
  have hAB : 2 ^ (2 * c.modbits) = 2 ^ (c.modbits - 1) * 2 ^ (c.modbits + 1) := by
    obtain ⟨-, -, -, hpos, -⟩ := modulus_facts h.2
    rw [← Nat.pow_add]
    congr 1
    omega
  obtain ⟨hle, hlt⟩ := barrett_quotient_bounds (Nat.two_pow_pos _) hAp hpA hB hx
  rw [← hAB] at hle hlt
  unfold barrettReduce barrettMu
  generalize x / 2 ^ (c.modbits - 1) * (2 ^ (2 * c.modbits) / c.p) / 2 ^ (c.modbits + 1) = q at *
  rw [Nat.add_mul] at hlt
  rw [subtractUpTo_eq_mod 2 (by omega)]
  rw [Nat.mul_comm] at hle ⊢
  exact Nat.sub_mul_mod hle

end

/-! ## Residues as elements of `ZMod p` -/

/-- Two naturals with one image in `ZMod p` have one residue; `b` is the residue when it is below `p`. -/
theorem mod_eq_of_cast_eq {p a b : Nat} (hb : b < p) (h : (a : ZMod p) = b) : a % p = b := by
  rw [ZMod.natCast_eq_natCast_iff'] at h
  rw [h, Nat.mod_eq_of_lt hb]

theorem cast_eq_one_iff {p a : Nat} (hp : 1 < p) (ha : a < p) : (a : ZMod p) = 1 ↔ a = 1 := by
  constructor
  · intro h
    rw [← Nat.mod_eq_of_lt ha]
    exact mod_eq_of_cast_eq hp (by rw [h, Nat.cast_one])
  · rintro rfl
    exact Nat.cast_one

theorem cast_eq_zero_iff {p a : Nat} (ha : a < p) : (a : ZMod p) = 0 ↔ a = 0 := by
  rw [ZMod.natCast_eq_zero_iff]
  exact ⟨fun h => Nat.eq_zero_of_dvd_of_lt h ha, fun h => h ▸ dvd_zero p⟩

/-- `powMod` is the power in `ZMod p` (R154). -/
theorem cast_powMod {p : Nat} (hp : 0 < p) (a e : Nat) : (powMod p a e : ZMod p) = (a : ZMod p) ^ e := by
  rw [powMod_eq hp, ZMod.natCast_mod, Nat.cast_pow]

section
variable {c : Config}

/-- `EULER` is the half of `p` that Euler's criterion asks for (R11). -/
theorem euler_eq (h : c.WF) : euler c = c.p / 2 := by
  have hodd : c.p % 2 = 1 := (modulus_facts h.2).1
  unfold euler
  omega

/-- Euler's criterion as the commands evaluate it: 1 exactly at the nonzero squares (R155, R159). -/
theorem powMod_euler_eq_one_iff (h : c.WF) {a : Nat} (ha : a < c.p) :
    powMod c.p a (euler c) = 1 ↔ a ≠ 0 ∧ IsSquare (a : ZMod c.p) := by
  have := Fact.mk h.1
  have hlt : powMod c.p a (euler c) < c.p := by
    rw [powMod_eq h.1.pos]
    exact Nat.mod_lt _ h.1.pos
  rw [← cast_eq_one_iff h.1.one_lt hlt, cast_powMod h.1.pos, euler_eq h]
  by_cases h0 : a = 0
  · have hhalf : c.p / 2 ≠ 0 := by
      have := h.1.two_le
      omega
    simp [h0, zero_pow hhalf]
  · rw [and_iff_right h0, ZMod.euler_criterion c.p (mt (cast_eq_zero_iff ha).1 h0)]

end

/-! ## The square root of Tonelli and Shanks (R11, R155) -/

/-- What `twoPart` counts: all the factors of 2, given enough fuel. -/
theorem twoPart_spec {k n : Nat} (h0 : n ≠ 0) (h : n < 2 ^ k) :
    ∃ m, n = 2 ^ twoPart k n * (2 * m + 1) := by
  induction k generalizing n with
  | zero => omega
  | succ k ih =>
    rw [twoPart]
    split
    · next heven =>
      obtain ⟨m, hm⟩ := ih (n := n / 2) (by omega) (by omega)
      refine ⟨m, ?_⟩
      rw [Nat.pow_succ', Nat.mul_assoc, ← hm]
      omega
    · next hodd => exact ⟨n / 2, by omega⟩

/-- `p - 1 = 2^TS_S * TS_T` with `TS_T` odd, and `TS_S` is not 0 because `p` is odd (R11). -/
theorem tsS_tsT_spec {c : Config} (h : c.WF) :
    0 < tsS c ∧ c.p - 1 = 2 ^ tsS c * tsT c ∧ tsT c % 2 = 1 := by
  obtain ⟨hodd, hp3, -⟩ := modulus_facts h.2
  have hlt := lt_two_pow_bitlen c.p
  obtain ⟨m, hm⟩ := twoPart_spec (k := bitlen c.p) (n := c.p - 1) (by omega) (by omega)
  have hT : tsT c = 2 * m + 1 := Nat.div_eq_of_eq_mul_right (Nat.two_pow_pos _) hm
  refine ⟨?_, by rw [hT]; exact hm, by omega⟩
  by_contra h0
  rw [tsS, Nat.not_lt, Nat.le_zero] at h0
  rw [h0] at hm
  omega

section
variable {p : Nat}

/-- `squareTimes n` raises to the power `2^n`. -/
theorem cast_squareTimes (n x : Nat) : (squareTimes p n x : ZMod p) = (x : ZMod p) ^ 2 ^ n := by
  induction n generalizing x with
  | zero => simp [squareTimes]
  | succ n ih =>
    rw [squareTimes, ih, ZMod.natCast_mod, Nat.cast_mul, ← pow_two, ← pow_mul, ← Nat.pow_succ']

/-- `orderExp` finds the power at which the chain of squares of `b` reaches 1. -/
theorem orderExp_spec (hp : 1 < p) (b : ZMod p) {fuel m y : Nat} (hy : y < p) (hyb : (y : ZMod p) = b ^ 2 ^ (m + 1))
    (hne : b ^ 2 ^ m ≠ 1) (hone : b ^ 2 ^ (m + 1 + fuel) = 1) :
    ∃ j, orderExp p fuel (m + 1) y = j + 1 ∧ b ^ 2 ^ j ≠ 1 ∧ b ^ 2 ^ (j + 1) = 1 := by
  induction fuel generalizing m y with
  | zero => exact ⟨m, rfl, hne, hone⟩
  | succ fuel ih =>
    rw [orderExp]
    split
    · next h1 => exact ⟨m, rfl, hne, by rw [← hyb, h1, Nat.cast_one]⟩
    · next h1 =>
      refine ih (Nat.mod_lt _ (by omega)) ?_ ?_ ?_
      · rw [ZMod.natCast_mod, Nat.cast_mul, hyb, ← pow_two, ← pow_mul, ← Nat.pow_succ]
      · rwa [← hyb, Ne, cast_eq_one_iff hp hy]
      · rwa [show m + 1 + 1 + fuel = m + 1 + (fuel + 1) by omega]

/-- The invariant of the loop of R155, for the square root of `a`: with `v = n + 1`, the error `b` has an order that
divides `2^n`, and `z` has the order `2^(n+1)`. -/
structure TonelliInv (p : Nat) (a : ZMod p) (n z x b : Nat) : Prop where
  b_lt : b < p
  sq_x : (x : ZMod p) ^ 2 = a * b
  b_pow : (b : ZMod p) ^ 2 ^ n = 1
  z_pow : (z : ZMod p) ^ 2 ^ n = -1

/-- A turn of the loop: when the error is not 1 its order is `2^(m+1)` with `m < n`, and a power of `z` of the same
order makes the order of the new error smaller. -/
theorem TonelliInv.turn [Fact p.Prime] {a : ZMod p} {n z x b : Nat} (h : TonelliInv p a n z x b) (hb : b ≠ 1) :
    ∃ m < n, orderExp p (n + 1) 1 (b * b % p) = m + 1 ∧
      ∀ w : Nat, (w : ZMod p) = (z : ZMod p) ^ 2 ^ (n - m - 1) →
        TonelliInv p a m (w * w % p) (x * w % p) (b * (w * w % p) % p) := by
  have hp : p.Prime := Fact.out
  obtain ⟨hblt, hx, hbn, hzn⟩ := h
  have hb1 : (b : ZMod p) ≠ 1 := mt (cast_eq_one_iff hp.one_lt hblt).1 hb
  obtain ⟨m, hm, hne, hone⟩ := orderExp_spec hp.one_lt (b : ZMod p) (fuel := n + 1) (m := 0)
    (Nat.mod_lt (b * b) hp.pos) (by simp [pow_two]) (by simpa using hb1)
    (by rw [Nat.add_comm, Nat.add_assoc, pow_add, pow_mul, hbn, one_pow])
  have hmn : m < n := by
    by_contra hle
    obtain ⟨d, rfl⟩ := Nat.exists_eq_add_of_le (Nat.not_lt.1 hle)
    exact hne (by rw [Nat.pow_add, pow_mul, hbn, one_pow])
  have hneg : (b : ZMod p) ^ 2 ^ m = -1 := by
    refine (mul_self_eq_one_iff.1 ?_).resolve_left hne
    rw [← pow_two, ← pow_mul, ← Nat.pow_succ, hone]
  refine ⟨m, hmn, hm, fun w hw => ?_⟩
  have hzw : ((w : ZMod p) * w) ^ 2 ^ m = -1 := by
    rw [hw, ← pow_two, ← pow_mul, ← pow_mul, ← Nat.pow_succ', ← Nat.pow_add,
      show n - m - 1 + (m + 1) = n by omega, hzn]
  refine ⟨Nat.mod_lt _ hp.pos, ?_, ?_, ?_⟩
  · simp only [ZMod.natCast_mod, Nat.cast_mul]
    rw [mul_pow, hx]
    ring
  · simp only [ZMod.natCast_mod, Nat.cast_mul]
    rw [mul_pow, hneg, hzw, neg_mul_neg, one_mul]
  · simpa only [ZMod.natCast_mod, Nat.cast_mul] using hzw

/-- The loop ends with a square root. -/
theorem tonelli_sq [Fact p.Prime] {a : ZMod p} {fuel n z x b : Nat} (h : TonelliInv p a n z x b)
    (hfuel : n < fuel) : (tonelli p fuel z x b (n + 1) : ZMod p) ^ 2 = a := by
  induction fuel generalizing n z x b with
  | zero => omega
  | succ fuel ih =>
    rw [tonelli]
    split
    · next hb => rw [h.sq_x, hb, Nat.cast_one, mul_one]
    · next hb =>
      obtain ⟨m, hmn, hm, hturn⟩ := h.turn hb
      simp only [hm]
      refine ih (hturn _ ?_) (by omega)
      rw [cast_squareTimes, show n + 1 - (m + 1) - 1 = n - m - 1 by omega]

end

section
variable {c : Config} (h : c.WF)
include h

/-- `NQR^((p-1)/2)` is -1: the condition on `NQR` (R9). -/
theorem cast_nqr_pow : (c.nqr : ZMod c.p) ^ ((c.p - 1) / 2) = -1 := by
  obtain ⟨-, hp3, -, -, -, -, -, hnqr⟩ := modulus_facts h.2
  rw [← cast_powMod h.1.pos, hnqr, Nat.cast_sub (by omega), ZMod.natCast_self, Nat.cast_one, zero_sub]

/-- What the constants of R11 and the first powers of `a` set up is the invariant of the loop. -/
theorem tonelliInv_start {a : Nat} (ha : (a : ZMod c.p) ^ ((c.p - 1) / 2) = 1) :
    TonelliInv c.p a (tsS c - 1) (nqrToT c) (a * powMod c.p a ((tsT c - 1) / 2) % c.p)
      (a * powMod c.p a ((tsT c - 1) / 2) % c.p * powMod c.p a ((tsT c - 1) / 2) % c.p) := by
  obtain ⟨hS, hpow, hT⟩ := tsS_tsT_spec h
  have hhalf : tsT c * 2 ^ (tsS c - 1) = (c.p - 1) / 2 := by
    obtain ⟨S, hS'⟩ : ∃ S, tsS c = S + 1 := ⟨tsS c - 1, by omega⟩
    rw [hpow, hS', Nat.pow_succ, Nat.add_sub_cancel, Nat.mul_right_comm, Nat.mul_div_cancel _ Nat.two_pos,
      Nat.mul_comm]
  have herr : (a : ZMod c.p) * a ^ ((tsT c - 1) / 2) * a ^ ((tsT c - 1) / 2) = a ^ tsT c := by
    rw [← pow_succ', ← pow_add]
    congr 1
    omega
  refine ⟨Nat.mod_lt _ h.1.pos, ?_, ?_, ?_⟩
  · simp only [ZMod.natCast_mod, Nat.cast_mul, cast_powMod h.1.pos]
    ring
  · simp only [ZMod.natCast_mod, Nat.cast_mul, cast_powMod h.1.pos]
    rw [herr, ← pow_mul, hhalf, ha]
  · rw [nqrToT, cast_powMod h.1.pos, ← pow_mul, hhalf, cast_nqr_pow h]

/-- The root found is a root (R155). -/
theorem cast_someRoot_sq {a : Nat} (ha : (a : ZMod c.p) ^ ((c.p - 1) / 2) = 1) :
    (someRoot c a : ZMod c.p) ^ 2 = a := by
  have := Fact.mk h.1
  obtain ⟨hS, -⟩ := tsS_tsT_spec h
  have hroot := tonelli_sq (tonelliInv_start h ha) (Nat.sub_one_lt hS.ne')
  rwa [Nat.sub_add_cancel hS] at hroot

/-- Of a root and its negative, the one that is at most `EULER` (R155). -/
theorem normRoot_spec {r : Nat} (hr : r < c.p) :
    normRoot c r ≤ (c.p - 1) / 2 ∧ (normRoot c r : ZMod c.p) ^ 2 = (r : ZMod c.p) ^ 2 := by
  have hodd : c.p % 2 = 1 := (modulus_facts h.2).1
  unfold normRoot euler
  split
  · rw [Nat.cast_sub hr.le, ZMod.natCast_self, zero_sub, neg_sq]
    exact ⟨by omega, rfl⟩
  · exact ⟨by omega, rfl⟩

/-- The value rule of FSQRT on a non-square. -/
theorem sqrtOrFault_error {a : Nat} (ha : a < c.p) (hsq : ¬IsSquare (a : ZMod c.p)) :
    sqrtOrFault c a = .error .nosqrt := by
  have h0 : a ≠ 0 := by
    rintro rfl
    exact hsq (by simp)
  rw [sqrtOrFault, if_neg h0, if_neg (fun e => hsq ((powMod_euler_eq_one_iff h ha).1 e).2)]

/-- The value rule of FSQRT on a square. -/
theorem sqrtOrFault_ok {a : Nat} (ha : a < c.p) (hsq : IsSquare (a : ZMod c.p)) :
    ∃ r, sqrtOrFault c a = .ok r ∧ r ^ 2 % c.p = a ∧ r ≤ (c.p - 1) / 2 := by
  by_cases h0 : a = 0
  · exact ⟨0, by rw [sqrtOrFault, if_pos h0], by simp [h0], Nat.zero_le _⟩
  · have heul := (powMod_euler_eq_one_iff h ha).2 ⟨h0, hsq⟩
    have hlt : someRoot c a < c.p := tonelli_lt h.1.pos _ _ (Nat.mod_lt _ h.1.pos) _ _
    have hpow : (a : ZMod c.p) ^ ((c.p - 1) / 2) = 1 := by
      have := cast_powMod h.1.pos a (euler c)
      rwa [heul, Nat.cast_one, eq_comm] at this
    obtain ⟨hle, hroot⟩ := normRoot_spec h hlt
    refine ⟨_, by rw [sqrtOrFault, if_neg h0, if_pos heul], mod_eq_of_cast_eq ha ?_, hle⟩
    rw [Nat.cast_pow, hroot, cast_someRoot_sq h hpow]

end

/-! ## The one-line contracts of the units (R141, R142, R144 to R147) -/

section
variable {c : Config} (h : c.WF)
include h

theorem montMul_lt (x y : Nat) : montMul c x y < c.p := Nat.mod_lt _ h.1.pos

theorem barrettMul_lt (x y : Nat) : barrettMul c x y < c.p := Nat.mod_lt _ h.1.pos

theorem cast_montR_mul_montRInv : (montR c : ZMod c.p) * montRInv c = 1 := by
  have := congrArg (Nat.cast (R := ZMod c.p)) (montR_mul_montRInv h)
  rwa [ZMod.natCast_mod, Nat.cast_mul, Nat.cast_one] at this

/-- `MontMul(x, y)` times `R` is `x * y` modulo `p`. -/
theorem montMul_mul_montR (x y : Nat) : montMul c x y * montR c % c.p = x * y % c.p := by
  rw [montMul, ← Nat.mod_mul_mod (x * y)]
  exact mul_mod_mul_mod_cancel (Nat.mod_lt _ h.1.pos) (mul_comm (montR c) _ ▸ montR_mul_montRInv h)

/-- TOMONT multiplies by `R`. -/
theorem montMul_montR2 (x : Nat) : montMul c x (montR2 c) = x * montR c % c.p := by
  refine (ZMod.natCast_eq_natCast_iff' _ _ _).1 ?_
  simp only [montR2, Nat.cast_mul, ZMod.natCast_mod]
  linear_combination (x : ZMod c.p) * montR c * cast_montR_mul_montRInv h

/-- R163: the factors `R` of the four Montgomery products cancel. -/
theorem montMul_montR2_eq_barrettMul (x y : Nat) :
    montMul c (montMul c (montMul c x (montR2 c)) (montMul c y (montR2 c))) 1 = barrettMul c x y := by
  rw [montMul_montR2 h, montMul_montR2 h]
  refine (ZMod.natCast_eq_natCast_iff' _ _ _).1 ?_
  simp only [montMul, Nat.cast_mul, ZMod.natCast_mod, Nat.cast_one]
  linear_combination (x : ZMod c.p) * y * (montR c * montRInv c + 1) * cast_montR_mul_montRInv h

end

/-! ## What each shape of command does once its operands pass -/

section
variable {s : State} {rd rs1 rs2 : CellIdx} {n m l : Nat}

theorem checkNeeds_src2 (h1 : Source s rs1 m) (h2 : Source s rs2 l) :
    checkNeeds { src := [(rs1.toNat, m), (rs2.toNat, l)] } s = none :=
  checkNeeds_eq_none rfl (List.forall_mem_nil _) (by simpa using ⟨h1, h2⟩) (List.forall_mem_nil _)
    (List.forall_mem_nil _)

theorem checkNeeds_dst_src2 (hd : Dest rd n) (h1 : Source s rs1 m) (h2 : Source s rs2 l) :
    checkNeeds { dst := [(rd.toNat, n)], src := [(rs1.toNat, m), (rs2.toNat, l)] } s = none :=
  checkNeeds_eq_none rfl (List.forall_mem_singleton.2 hd) (by simpa using ⟨h1, h2⟩) (List.forall_mem_nil _)
    (List.forall_mem_nil _)

theorem checkNeeds_dst_src_reg {k : KIdx} (hd : Dest rd n) (h1 : Source s rs1 m) (hk : kValid s k = true) :
    checkNeeds { dst := [(rd.toNat, n)], src := [(rs1.toNat, m)], regs := [k] } s = none :=
  checkNeeds_eq_none rfl (List.forall_mem_singleton.2 hd) (List.forall_mem_singleton.2 h1)
    (List.forall_mem_singleton.2 hk) (List.forall_mem_nil _)

end

/-! ### Raw contents -/

section
variable {s : State} {rd rs1 rs2 : CellIdx}

/-- One raw content below `p`. -/
theorem command_setCell {n : Needs} (hn : checkNeeds n s = none) {v : State → Nat} (hv : v s < s.cfg.p) :
    ∃ t, command n (fun s => .ok (setCell s rd.toNat (v s))) s = .next t ∧ OnlyCells s t rd 1 ∧
      rawCell t rd.toNat = v s :=
  ⟨_, command_ok hn rfl, onlyCells_setCell hv, rawCell_setCell_self _ _ _⟩

theorem rawOp1_next {op : Config → Nat → Nat} (h1 : Source s rs1 1)
    (hop : op s.cfg (rawCell s rs1.toNat) < s.cfg.p) :
    ∃ t, rawOp1 op rd rs1 s = .next t ∧ OnlyCells s t rd 1 ∧
      rawCell t rd.toNat = op s.cfg (rawCell s rs1.toNat) :=
  command_setCell (checkNeeds_dst_src (dest_one rd) h1) (v := fun s => op s.cfg (rawCell s rs1.toNat)) hop

theorem rawOp2_next {op : Config → Nat → Nat → Nat} (h1 : Source s rs1 1) (h2 : Source s rs2 1)
    (hop : op s.cfg (rawCell s rs1.toNat) (rawCell s rs2.toNat) < s.cfg.p) :
    ∃ t, rawOp2 op rd rs1 rs2 s = .next t ∧ OnlyCells s t rd 1 ∧
      rawCell t rd.toNat = op s.cfg (rawCell s rs1.toNat) (rawCell s rs2.toNat) :=
  command_setCell (checkNeeds_dst_src2 (dest_one rd) h1 h2)
    (v := fun s => op s.cfg (rawCell s rs1.toNat) (rawCell s rs2.toNat)) hop

variable (hs : Sound s) (h1 : Source s rs1 1)
include hs h1

theorem execTomont_next : ∃ t, execTomont rd rs1 s = .next t ∧ OnlyCells s t rd 1 ∧
    rawCell t rd.toNat = montMul s.cfg (rawCell s rs1.toNat) (montR2 s.cfg) :=
  rawOp1_next (op := fun c x => montMul c x (montR2 c)) h1 (montMul_lt hs.1 _ _)

theorem execFrommont_next : ∃ t, execFrommont rd rs1 s = .next t ∧ OnlyCells s t rd 1 ∧
    rawCell t rd.toNat = montMul s.cfg (rawCell s rs1.toNat) 1 :=
  rawOp1_next (op := fun c x => montMul c x 1) h1 (montMul_lt hs.1 _ _)

theorem execFfrob_next (pow : BitVec 7) : ∃ t, execFfrob rd rs1 pow s = .next t ∧ OnlyCells s t rd 1 ∧
    rawCell t rd.toNat = rawCell s rs1.toNat :=
  rawOp1_next (op := fun _ x => x) h1 (rawCell_base_lt hs h1)

variable (h2 : Source s rs2 1)
include h2

theorem execMmul_next : ∃ t, execMmul rd rs1 rs2 s = .next t ∧ OnlyCells s t rd 1 ∧
    rawCell t rd.toNat = montMul s.cfg (rawCell s rs1.toNat) (rawCell s rs2.toNat) :=
  rawOp2_next h1 h2 (montMul_lt hs.1 _ _)

theorem execBmul_next : ∃ t, execBmul rd rs1 rs2 s = .next t ∧ OnlyCells s t rd 1 ∧
    rawCell t rd.toNat = barrettMul s.cfg (rawCell s rs1.toNat) (rawCell s rs2.toNat) :=
  rawOp2_next h1 h2 (barrettMul_lt hs.1 _ _)

end

/-! ### Elements of any field -/

section
variable {α : Type} {K : Fld α} {s : State} {rd rs1 rs2 : CellIdx}

theorem elemOp2_eq {op : α → α → α} (hd : Dest rd K.arity) (h1 : Source s rs1 K.arity)
    (h2 : Source s rs2 K.arity) : elemOp2 true K op rd rs1 rs2 s =
      .next (complete (writeElem K s rd.toNat (op (readElem K s rs1.toNat) (readElem K s rs2.toNat)))) :=
  command_ok (checkNeeds_dst_src2 hd h1 h2) rfl

theorem elemOp1?_error {op : α → Except FaultCode α} {c : FaultCode} (hd : Dest rd K.arity)
    (h1 : Source s rs1 K.arity) (hop : op (readElem K s rs1.toNat) = .error c) :
    elemOp1? true K op rd rs1 s = .next (faulted s (faultCode c)) :=
  command_map_error (checkNeeds_dst_src hd h1) (rule := fun s => op (readElem K s rs1.toNat)) hop

theorem elemOp1?_ok {op : α → Except FaultCode α} {a : α} (hd : Dest rd K.arity)
    (h1 : Source s rs1 K.arity) (hop : op (readElem K s rs1.toNat) = .ok a) :
    elemOp1? true K op rd rs1 s = .next (complete (writeElem K s rd.toNat a)) :=
  command_map_ok (checkNeeds_dst_src hd h1) (rule := fun s => op (readElem K s rs1.toNat)) hop

theorem elemOp1_eq {op : α → α} (hd : Dest rd K.arity) (h1 : Source s rs1 K.arity) :
    elemOp1 true K op rd rs1 s =
      .next (complete (writeElem K s rd.toNat (op (readElem K s rs1.toNat)))) :=
  elemOp1?_ok hd h1 rfl

theorem elemOpK_eq {op : α → Nat → α} {k : KIdx} (hd : Dest rd K.arity) (h1 : Source s rs1 K.arity)
    (hk : kValid s k = true) : elemOpK true K op rd rs1 k s =
      .next (complete (writeElem K s rd.toNat (op (readElem K s rs1.toNat) (kReg s k)))) :=
  command_ok (checkNeeds_dst_src_reg hd h1 hk) rfl

end

/-! ### Elements of the base field -/

section
variable {s : State} {rd rs1 rs2 : CellIdx}

/-- A residue written as an element of the base field is the canonical value of its cell (R13, R140). -/
theorem writeElem_fp_next {o : Out} {a : Nat} (hs : Sound s) (ha : a < s.cfg.p)
    (ho : o = .next (complete (writeElem (fp s.cfg) s rd.toNat a))) :
    ∃ t, o = .next t ∧ OnlyCells s t rd 1 ∧ canon t rd.toNat = a :=
  ⟨_, ho, onlyCells_setCell (rep_lt hs.1 ha), canon_setCell_rep hs.1 ha⟩

variable (hs : Sound s) (h1 : Source s rs1 1)
include hs h1

theorem canon_base_lt : canon s rs1.toNat < s.cfg.p := val_lt hs.1 (rawCell_base_lt hs h1)

theorem execFadd_next (h2 : Source s rs2 1) : ∃ t, execFadd rd rs1 rs2 s = .next t ∧ OnlyCells s t rd 1 ∧
    canon t rd.toNat = (canon s rs1.toNat + canon s rs2.toNat) % s.cfg.p :=
  writeElem_fp_next hs (Nat.mod_lt _ hs.1.1.pos) (elemOp2_eq (dest_one rd) h1 h2)

theorem execFsub_next (h2 : Source s rs2 1) : ∃ t, execFsub rd rs1 rs2 s = .next t ∧ OnlyCells s t rd 1 ∧
    (canon t rd.toNat + canon s rs2.toNat) % s.cfg.p = canon s rs1.toNat := by
  obtain ⟨t, ht, honly, hval⟩ : ∃ t, execFsub rd rs1 rs2 s = .next t ∧ OnlyCells s t rd 1 ∧
      canon t rd.toNat = (canon s rs1.toNat + (s.cfg.p - canon s rs2.toNat % s.cfg.p)) % s.cfg.p :=
    writeElem_fp_next hs (Nat.mod_lt _ hs.1.1.pos) (elemOp2_eq (dest_one rd) h1 h2)
  have hb := canon_base_lt hs h2
  refine ⟨t, ht, honly, ?_⟩
  rw [hval, Nat.mod_eq_of_lt hb, Nat.mod_add_mod, Nat.add_assoc, Nat.sub_add_cancel hb.le, Nat.add_mod_right,
    Nat.mod_eq_of_lt (canon_base_lt hs h1)]

theorem execFmul_next (h2 : Source s rs2 1) : ∃ t, execFmul rd rs1 rs2 s = .next t ∧ OnlyCells s t rd 1 ∧
    canon t rd.toNat = canon s rs1.toNat * canon s rs2.toNat % s.cfg.p :=
  writeElem_fp_next hs (Nat.mod_lt _ hs.1.1.pos) (elemOp2_eq (dest_one rd) h1 h2)

theorem execFsqr_next : ∃ t, execFsqr rd rs1 s = .next t ∧ OnlyCells s t rd 1 ∧
    canon t rd.toNat = canon s rs1.toNat ^ 2 % s.cfg.p := by
  rw [pow_two]
  exact writeElem_fp_next hs (Nat.mod_lt _ hs.1.1.pos) (elemOp1_eq (dest_one rd) h1)

theorem execFneg_next : ∃ t, execFneg rd rs1 s = .next t ∧ OnlyCells s t rd 1 ∧
    canon t rd.toNat = (s.cfg.p - canon s rs1.toNat) % s.cfg.p := by
  rw [← Nat.mod_eq_of_lt (canon_base_lt hs h1)]
  exact writeElem_fp_next hs (Nat.mod_lt _ hs.1.1.pos) (elemOp1_eq (dest_one rd) h1)

theorem execFpow_next {k : KIdx} (hk : kValid s k = true) :
    ∃ t, execFpow rd rs1 k s = .next t ∧ OnlyCells s t rd 1 ∧
      canon t rd.toNat = canon s rs1.toNat ^ kReg s k % s.cfg.p := by
  rw [← powMod_eq hs.1.1.pos]
  refine writeElem_fp_next hs ?_ (elemOpK_eq (dest_one rd) h1 hk)
  rw [powMod_eq hs.1.1.pos]
  exact Nat.mod_lt _ hs.1.1.pos

omit hs in
theorem execFinv_zero (h0 : canon s rs1.toNat = 0) : execFinv rd rs1 s = .next (faulted s 7) :=
  elemOp1?_error (c := .invzero) (dest_one rd) h1 (if_pos h0)

theorem execFinv_next (h0 : canon s rs1.toNat ≠ 0) :
    ∃ t, execFinv rd rs1 s = .next t ∧ OnlyCells s t rd 1 ∧
      canon s rs1.toNat * canon t rd.toNat % s.cfg.p = 1 := by
  obtain ⟨t, ht, honly, hval⟩ := writeElem_fp_next (rd := rd) hs (invMod_lt hs.1.1.pos (canon s rs1.toNat))
    (elemOp1?_ok (op := invOrFault (fp s.cfg)) (dest_one rd) h1 (if_neg h0))
  have hmod : canon s rs1.toNat % s.cfg.p ≠ 0 := by rwa [Nat.mod_eq_of_lt (canon_base_lt hs h1)]
  exact ⟨t, ht, honly, hval ▸ mul_invMod hs.1.1 hmod⟩

theorem execFsqrt_nonsquare (hsq : ¬IsSquare (canon s rs1.toNat : ZMod s.cfg.p)) :
    execFsqrt rd rs1 s = .next (faulted s 8) :=
  elemOp1?_error (c := .nosqrt) (dest_one rd) h1 (sqrtOrFault_error hs.1 (canon_base_lt hs h1) hsq)

theorem execFsqrt_square (hsq : IsSquare (canon s rs1.toNat : ZMod s.cfg.p)) :
    ∃ t, execFsqrt rd rs1 s = .next t ∧ OnlyCells s t rd 1 ∧
      canon t rd.toNat ^ 2 % s.cfg.p = canon s rs1.toNat ∧ canon t rd.toNat ≤ (s.cfg.p - 1) / 2 := by
  obtain ⟨r, hok, hroot, hle⟩ := sqrtOrFault_ok hs.1 (canon_base_lt hs h1) hsq
  obtain ⟨t, ht, honly, rfl⟩ := writeElem_fp_next (rd := rd) hs (sqrtOrFault_lt hs.1.1.pos hok)
    (elemOp1?_ok (dest_one rd) h1 hok)
  exact ⟨t, ht, honly, hroot, hle⟩

end

/-! ### Tests -/

section
variable {s : State} {rs1 rs2 : CellIdx} {n m : Nat} {test : State → Bool} {P : Prop}

theorem testOp1_next (h1 : Source s rs1 n) (hP : test s = true ↔ P) :
    ∃ t, testOp1 true (rs1.toNat, n) test s = .next t ∧ OnlyT s t ∧ (t.t = true ↔ P) :=
  ⟨_, command_ok (checkNeeds_src h1) rfl, onlyT_setT _ _, hP⟩

theorem testOp2_next (h1 : Source s rs1 n) (h2 : Source s rs2 m) (hP : test s = true ↔ P) :
    ∃ t, testOp2 true (rs1.toNat, n) (rs2.toNat, m) test s = .next t ∧ OnlyT s t ∧ (t.t = true ↔ P) :=
  ⟨_, command_ok (checkNeeds_src2 h1 h2) rfl, onlyT_setT _ _, hP⟩

theorem val_zero (c : Config) : val c 0 = 0 := by
  cases hm : c.redmode with
  | mont => rw [val_mont hm, Nat.zero_mul, Nat.zero_mod]
  | barrett => rw [val_barrett hm]

variable (hs : Sound s) (h1 : Source s rs1 1)
include hs h1

/-- Equal raw contents are equal values, as `val` is injective (R12, R157). -/
theorem rawCell_eq_iff_canon_eq (h2 : Source s rs2 1) :
    rawCell s rs1.toNat = rawCell s rs2.toNat ↔ canon s rs1.toNat = canon s rs2.toNat := by
  refine ⟨congrArg (val s.cfg), fun e => ?_⟩
  rw [← rep_val hs.1 (rawCell_base_lt hs h1), ← rep_val hs.1 (rawCell_base_lt hs h2)]
  exact congrArg (rep s.cfg) e

theorem rawCell_eq_zero_iff_canon_eq_zero : rawCell s rs1.toNat = 0 ↔ canon s rs1.toNat = 0 := by
  constructor
  · intro e
    rw [canon, e, val_zero]
  · intro e
    rw [← rep_val hs.1 (rawCell_base_lt hs h1), ← rep_val hs.1 hs.1.1.pos, val_zero]
    exact congrArg (rep s.cfg) e

theorem execFisz_next : ∃ t, execFisz rs1 s = .next t ∧ OnlyT s t ∧ (t.t = true ↔ canon s rs1.toNat = 0) :=
  testOp1_next h1 (beq_iff_eq.trans (rawCell_eq_zero_iff_canon_eq_zero hs h1))

theorem execFeq_next (h2 : Source s rs2 1) : ∃ t, execFeq rs1 rs2 s = .next t ∧ OnlyT s t ∧
    (t.t = true ↔ canon s rs1.toNat = canon s rs2.toNat) :=
  testOp2_next h1 h2 (beq_iff_eq.trans (rawCell_eq_iff_canon_eq hs h1 h2))

theorem execFissq_next : ∃ t, execFissq rs1 s = .next t ∧ OnlyT s t ∧
    (t.t = true ↔ canon s rs1.toNat ≠ 0 ∧ IsSquare (canon s rs1.toNat : ZMod s.cfg.p)) :=
  testOp1_next h1 (beq_iff_eq.trans (powMod_euler_eq_one_iff hs.1 (canon_base_lt hs h1)))

omit hs

theorem execFlt_next (h2 : Source s rs2 1) : ∃ t, execFlt rs1 rs2 s = .next t ∧ OnlyT s t ∧
    (t.t = true ↔ canon s rs1.toNat < canon s rs2.toNat) := testOp2_next h1 h2 decide_eq_true_iff

theorem execFsign_next : ∃ t, execFsign rs1 s = .next t ∧ OnlyT s t ∧
    (t.t = true ↔ (s.cfg.p - 1) / 2 < canon s rs1.toNat) := testOp1_next h1 decide_eq_true_iff

theorem execFbit_next (imm : BitVec 10) : ∃ t, execFbit rs1 imm s = .next t ∧ OnlyT s t ∧
    (t.t = true ↔ canon s rs1.toNat / 2 ^ imm.toNat % 2 = 1) := by
  refine testOp1_next h1 ?_
  rw [Nat.testBit_eq_decide_div_mod_eq, decide_eq_true_iff]

end

/-! ## A command after a command that writes cells (R16, R23, R24) -/

section
variable {s t : State} {b q : CellIdx} {n m : Nat} (h : OnlyCells s t b n)
include h

theorem OnlyCells.cfg_eq : t.cfg = s.cfg := by
  obtain ⟨⟨-, -, hcfg, -⟩, -⟩ := h
  exact hcfg

theorem OnlyCells.sound (hs : Sound s) : Sound t := by
  obtain ⟨-, hsame, hwritten, -⟩ := id h
  obtain ⟨hwf, hbelow⟩ := hs
  have hcfg := h.cfg_eq
  refine ⟨hcfg ▸ hwf, fun i hi hv => ?_⟩
  by_cases hin : b.toNat ≤ i ∧ i < b.toNat + n
  · have := (hwritten (i - b.toNat) (by omega)).2
    rwa [Nat.add_sub_cancel' hin.1] at this
  · obtain ⟨hraw, hvalid⟩ := hsame i hi hin
    rw [hraw, hcfg]
    exact hbelow i hi (hvalid ▸ hv)

/-- No command takes a valid bit away. -/
theorem OnlyCells.source (hq : Source s q m) : Source t q m := by
  obtain ⟨-, hsame, hwritten, -⟩ := h
  obtain ⟨hfit, hvalid⟩ := hq
  refine ⟨hfit, fun i hi => ?_⟩
  by_cases hin : b.toNat ≤ q.toNat + i ∧ q.toNat + i < b.toNat + n
  · have := (hwritten (q.toNat + i - b.toNat) (by omega)).1
    rwa [Nat.add_sub_cancel' hin.1] at this
  · rw [(hsame _ (by omega) hin).2, hvalid i hi]

theorem OnlyCells.source_self (hb : Dest b n) : Source t b n := by
  obtain ⟨-, -, hwritten, -⟩ := h
  exact ⟨hb, fun i hi => (hwritten i hi).1⟩

end

/-- A command that writes one cell leaves every other cell. -/
theorem OnlyCells.rawCell_of_ne {s t : State} {b q : CellIdx} (h : OnlyCells s t b 1) (hq : q ≠ b) :
    rawCell t q.toNat = rawCell s q.toNat := by
  have hne : q.toNat ≠ b.toNat := fun e => hq (BitVec.eq_of_toNat_eq e)
  obtain ⟨-, hsame, -⟩ := h
  exact (hsame _ q.isLt (by omega)).1

/-! ## The obligations -/

/-- Settles O24: `PINV` is the inverse of `p` modulo `R` by Euler, so REDC divides exactly. -/
theorem montgomeryReduction : Obligations.MontgomeryReduction := fun c h => by
  have hR : 1 < montR c := by
    rw [montR_eq_two_mul h]
    have := Nat.two_pow_pos (c.rbits - 1)
    omega
  exact ⟨Nat.mod_eq_of_modEq (montPInv_mul h) hR, fun _ ht => redc_spec h ht⟩

/-- Settles O25: the Barrett quotient is at most 2 below the true one, which two subtractions make good. -/
theorem barrettReduction : Obligations.BarrettReduction := fun _ h _ hx => barrettReduce_eq h hx

/-- Settles O30: `RINV` cancels one factor `R`. -/
theorem reductionUnits : Obligations.ReductionUnits := by
  intro s rd rs1 rs2 hs h1
  refine ⟨fun h2 => ⟨?_, execBmul_next hs h1 h2⟩, ?_, ?_⟩
  · obtain ⟨t, ht, honly, hval⟩ := execMmul_next (rd := rd) hs h1 h2
    exact ⟨t, ht, honly, hval ▸ montMul_mul_montR hs.1 _ _⟩
  · obtain ⟨t, ht, honly, hval⟩ := execTomont_next (rd := rd) hs h1
    exact ⟨t, ht, honly, hval.trans (montMul_montR2 hs.1 _)⟩
  · obtain ⟨t, ht, honly, hval⟩ := execFrommont_next (rd := rd) hs h1
    have hx := montMul_mul_montR hs.1 (rawCell s rs1.toNat) 1
    rw [Nat.mul_one, Nat.mod_eq_of_lt (rawCell_base_lt hs h1), ← hval] at hx
    exact ⟨t, ht, honly, hx⟩

/-- Settles O31: each operation of `fpOps` on the canonical values of its operands. -/
theorem fieldArithmetic : Obligations.FieldArithmetic := fun _ _ _ _ hs h1 =>
  ⟨fun h2 => ⟨execFadd_next hs h1 h2, execFsub_next hs h1 h2, execFmul_next hs h1 h2⟩, execFsqr_next hs h1,
    execFneg_next hs h1, execFfrob_next hs h1⟩

/-- Settles O32: the power `p - 2` is the inverse of a nonzero residue. -/
theorem fieldInverse : Obligations.FieldInverse := fun _ _ _ hs h1 =>
  ⟨execFinv_zero h1, execFinv_next hs h1⟩

/-- Settles O33: square-and-multiply over all bits of the register. -/
theorem fieldPower : Obligations.FieldPower := fun _ _ _ _ hs h1 hk => execFpow_next hs h1 hk

/-- Settles O34: Euler's criterion tells the squares, and the loop of Tonelli and Shanks finds a root of each. -/
theorem squareRoot : Obligations.SquareRoot := fun _ _ _ hs h1 =>
  ⟨execFsqrt_nonsquare hs h1, execFsqrt_square hs h1⟩

/-- Settles O35: the tests on raw contents agree with those on values, as `val` is injective. -/
theorem fieldTests : Obligations.FieldTests := fun _ _ _ imm hs h1 =>
  ⟨execFisz_next hs h1, fun h2 => ⟨execFeq_next hs h1 h2, execFlt_next h1 h2⟩, execFissq_next hs h1,
    execFsign_next h1, execFbit_next h1 imm⟩

/-- Settles O36: each command runs after the ones before it have kept its sources, and the values agree by
`montMul_montR2_eq_barrettMul`. -/
theorem unitsAgree : Obligations.UnitsAgree := by
  intro s rs1 rs2 a b c d e hs h1 h2 hdistinct hrs1 hrs2
  simp only [List.nodup_cons, List.mem_cons, List.not_mem_nil, or_false, not_or] at hdistinct hrs1 hrs2
  obtain ⟨⟨hab, -, -, -⟩, -, -, ⟨hde, -⟩⟩ := hdistinct
  obtain ⟨h1a, h1b, h1c, h1d, -⟩ := hrs1
  obtain ⟨h2a, h2b, h2c, h2d, -⟩ := hrs2
  obtain ⟨s1, e1, o1, v1⟩ := execTomont_next (rd := a) hs h1
  have hs1 := o1.sound hs
  obtain ⟨s2, e2, o2, v2⟩ := execTomont_next (rd := b) hs1 (o1.source h2)
  have hs2 := o2.sound hs1
  obtain ⟨s3, e3, o3, v3⟩ := execMmul_next (rd := c) hs2 (o2.source (o1.source_self (dest_one a)))
    (o2.source_self (dest_one b))
  have hs3 := o3.sound hs2
  obtain ⟨s4, e4, o4, v4⟩ := execFrommont_next (rd := d) hs3 (o3.source_self (dest_one c))
  have keep : ∀ {q : CellIdx}, Source s q 1 → Source s4 q 1 := fun hq =>
    o4.source (o3.source (o2.source (o1.source hq)))
  obtain ⟨s5, e5, o5, v5⟩ := execBmul_next (rd := e) (o4.sound hs3) (keep h1) (keep h2)
  refine ⟨s1, s2, s3, s4, s5, e1, e2, e3, e4, e5, ?_⟩
  rw [o5.rawCell_of_ne hde, v4, v3, v2, o2.rawCell_of_ne hab, v1, v5,
    o4.rawCell_of_ne h1d, o3.rawCell_of_ne h1c, o2.rawCell_of_ne h1b, o1.rawCell_of_ne h1a,
    o4.rawCell_of_ne h2d, o3.rawCell_of_ne h2c, o2.rawCell_of_ne h2b, o1.rawCell_of_ne h2a,
    o4.cfg_eq, o3.cfg_eq, o2.cfg_eq, o1.cfg_eq]
  exact montMul_montR2_eq_barrettMul hs.1 _ _

end Sys2Proof.Machine

/-! PROOFS. The towers (42_towers_fp2_fp3.md): each level is a finite field whose inverse and Frobenius tables are
right, and what the commands on its elements write. -/

namespace Sys2Proof.Machine

/-! ## Finite fields (R140, R180, R200)

Lean knows the rings of Safety/Rings.lean as commutative rings alone: that one is a field, and of how many elements,
is a fact stated about it. -/

section
open Polynomial

/-- The ring is a field of `p^m` elements. -/
structure IsFieldOfCard (A : Type) [CommRing A] (p m : Nat) : Prop where
  isField : IsField A
  card : Nat.card A = p ^ m

theorem isFieldOfCard_zmod {p : Nat} (hp : p.Prime) : IsFieldOfCard (ZMod p) p 1 where
  isField := by
    have := Fact.mk hp
    exact Field.toIsField (ZMod p)
  card := by rw [Nat.card_zmod, pow_one]

section
variable {A : Type} [CommRing A] {p m : Nat} (h : IsFieldOfCard A p m)
include h

/-- A root of `x^n = N`, for a prime `n` and an `N` that is no `n`-th power, generates the field of degree `n`. -/
theorem IsFieldOfCard.adjoinRoot {n : Nat} (hn : n.Prime) {N : A} (hN : ∀ x, x ^ n ≠ N) :
    IsFieldOfCard (AdjoinRoot (X ^ n - C N)) p (n * m) := by
  let := h.isField.toField
  have hirr := Fact.mk (X_pow_sub_C_irreducible_of_prime hn hN)
  refine ⟨Field.toIsField (AdjoinRoot (X ^ n - C N)), ?_⟩
  have hne : (X ^ n - C N : A[X]) ≠ 0 := hirr.out.ne_zero
  have := (AdjoinRoot.powerBasis hne).finite
  rw [Module.natCard_eq_pow_finrank (K := A), (AdjoinRoot.powerBasis hne).finrank, AdjoinRoot.powerBasis_dim,
    natDegree_X_pow_sub_C, h.card, ← pow_mul, mul_comm]

theorem IsFieldOfCard.finite (hp : p.Prime) : Finite A :=
  Nat.finite_of_card_ne_zero (h.card ▸ pow_ne_zero m hp.ne_zero)

theorem IsFieldOfCard.pow_card (hp : p.Prime) (x : A) : x ^ p ^ m = x := by
  let := h.isField.toField
  have := h.finite hp
  let := Fintype.ofFinite A
  rw [← h.card, Nat.card_eq_fintype_card]
  exact FiniteField.pow_card x

/-- Raising to the power `p^k` depends on `k` modulo the degree (R182, R202; conflict C5). -/
theorem IsFieldOfCard.pow_pow_mod (hp : p.Prime) (x : A) (k : Nat) : x ^ p ^ k = x ^ p ^ (k % m) := by
  have hcycle : ∀ j : Nat, x ^ p ^ (m * j) = x := fun j => by
    induction j with
    | zero => simp
    | succ j ih => rw [Nat.mul_succ, pow_add, pow_mul, ih, h.pow_card hp]
  conv_lhs => rw [← Nat.div_add_mod k m, pow_add, pow_mul, hcycle]

theorem IsFieldOfCard.add_pow_prime_pow (hp : p.Prime) (x y : A) (k : Nat) :
    (x + y) ^ p ^ k = x ^ p ^ k + y ^ p ^ k := by
  let := h.isField.toField
  have := Fact.mk hp
  have := h.finite hp
  let := Fintype.ofFinite A
  have := charP_of_card_eq_prime_pow (Nat.card_eq_fintype_card (α := A) ▸ h.card)
  exact add_pow_char_pow x y p k

theorem IsFieldOfCard.pow_card_pred (hp : p.Prime) {x : A} (hx : x ≠ 0) : x ^ (p ^ m - 1) = 1 := by
  obtain ⟨y, hy⟩ := h.isField.mul_inv_cancel hx
  calc x ^ (p ^ m - 1) = x ^ (p ^ m - 1 + 1) * y := by rw [pow_succ, mul_assoc, hy, mul_one]
    _ = 1 := by rw [Nat.sub_add_cancel (Nat.one_le_pow _ _ hp.pos), h.pow_card hp, hy]

end

/-- The root of `x^n = N` to a power that is 1 modulo `n`. -/
theorem root_pow_of_dvd_pred {A : Type} [CommRing A] (N : A) {n q : Nat} (hq : 1 ≤ q) (hd : n ∣ q - 1) :
    AdjoinRoot.root (X ^ n - C N) ^ q =
      AdjoinRoot.of (X ^ n - C N) (N ^ ((q - 1) / n)) * AdjoinRoot.root (X ^ n - C N) := by
  calc AdjoinRoot.root (X ^ n - C N) ^ q = AdjoinRoot.root (X ^ n - C N) ^ (n * ((q - 1) / n) + 1) := by
        rw [Nat.mul_div_cancel' hd, Nat.sub_add_cancel hq]
    _ = _ := by rw [pow_succ, pow_mul, root_pow, map_pow]

/-- `n` divides `p - 1`, and so `p^k - 1`. -/
theorem dvd_pow_pred {p n : Nat} (hn : 1 < n) (hp : p % n = 1) (k : Nat) : n ∣ p ^ k - 1 := by
  have hpos : 0 < p := Nat.pos_of_ne_zero fun h0 => by simp [h0] at hp
  have hmod : 1 ≡ p [MOD n] := by rw [Nat.ModEq, hp, Nat.mod_eq_of_lt hn]
  simpa using (Nat.modEq_iff_dvd' (Nat.one_le_pow k p hpos)).1 (by simpa using hmod.pow k)

/-- The norm of a quadratic extension is zero on zero alone (R183). -/
theorem quad_norm_ne_zero {A : Type} [CommRing A] (hA : IsField A) {N : A} (hN : ∀ x, x ^ 2 ≠ N) {x y : A}
    (h : ¬(x = 0 ∧ y = 0)) : x * x - N * (y * y) ≠ 0 := by
  have := hA.isDomain
  intro h0
  by_cases hy : y = 0
  · exact h ⟨by simpa [hy] using h0, hy⟩
  · obtain ⟨z, hz⟩ := hA.mul_inv_cancel hy
    exact hN (x * z) (by linear_combination z ^ 2 * h0 + N * (y * z + 1) * hz)

/-- The cofactors of the norm of a cubic extension are zero together on zero alone (R203). -/
theorem cub_cofactors_eq_zero {A : Type} [CommRing A] (hA : IsField A) {N : A} (hN : ∀ x, x ^ 3 ≠ N) {x y z : A}
    (h0 : x * x - N * (y * z) = 0) (h1 : N * (z * z) - x * y = 0) (h2 : y * y - x * z = 0) :
    x = 0 ∧ y = 0 ∧ z = 0 := by
  have := hA.isDomain
  by_cases hz : z = 0
  · have hy : y = 0 := by simpa [hz] using h2
    exact ⟨by simpa [hz] using h0, hy, hz⟩
  · obtain ⟨w, hw⟩ := hA.mul_inv_cancel hz
    have hcube : y ^ 3 = N * z ^ 3 := by linear_combination y * h2 - z * h1
    exact (hN (y * w) (by linear_combination w ^ 3 * hcube + N * ((z * w) ^ 2 + z * w + 1) * hw)).elim

end

/-! ## A level of the towers (R140 to R143, R181 to R183, R201 to R203) -/

/-- The operations `K` compute in the field `A` of `p^arity` elements: `φ` reads an element, `ok` says that its
coordinates are canonical, and the inverse and the Frobenius tables are right. -/
structure TowerFld {α : Type} (p : Nat) (K : Fld α) (A : Type) [CommRing A] (φ : α → A) (ok : α → Prop) : Prop where
  model : FldModel K A φ ok
  field : IsFieldOfCard A p K.arity
  map_inv : ∀ a, φ a ≠ 0 → φ a * φ (K.inv a) = 1
  map_frob : ∀ k a, φ (K.frob k a) = φ a ^ p ^ k

theorem towerFld_fpOps {p : Nat} (hp : p.Prime) :
    TowerFld p (fpOps p) (ZMod p) (fun x => (x : ZMod p)) (· < p) where
  model := fpModel hp.one_lt
  field := isFieldOfCard_zmod hp
  map_inv a ha := by
    have hmod : a % p ≠ 0 := by
      rwa [Ne, ZMod.natCast_eq_zero_iff, Nat.dvd_iff_mod_eq_zero] at ha
    have := congrArg (Nat.cast (R := ZMod p)) (mul_invMod hp hmod)
    rwa [ZMod.natCast_mod, Nat.cast_mul, Nat.cast_one] at this
  map_frob k a := by
    have := Fact.mk hp
    exact (ZMod.pow_card_pow (n := k) (a : ZMod p)).symm

section
open Polynomial
variable {α : Type} {p : Nat} {K : Fld α} {A : Type} [CommRing A] {φ : α → A} {ok : α → Prop}

theorem FldModel.pow_ok (h : FldModel K A φ ok) (a : α) (e : Nat) : ok (K.pow a e) :=
  powLoop_ok h.mul_ok a e _ h.one_ok

/-- The criterion of Euler by which the configuration is checked (R9): what passes is no `n`-th power. -/
theorem TowerFld.ne_pow_of_notPower [DecidableEq α] (h : TowerFld p K A φ ok) (hp : p.Prime) {n q : Nat} (hn : 1 < n)
    (hpn : p % n = 1) (hq : q = p ^ K.arity) {a : α} (ha : ok a) (hnot : notPower K q n a = true) (x : A) :
    x ^ n ≠ φ a := by
  subst hq
  intro hx
  simp only [notPower, Bool.and_eq_true, bne_iff_ne] at hnot
  obtain ⟨h0, h1⟩ := hnot
  refine h1 ((h.model.eq_iff (h.model.pow_ok _ _) h.model.one_ok).2 ?_)
  have hx0 : x ≠ 0 := fun e => h0 ((h.model.eq_zero_iff ha).2 (by rw [← hx, e, zero_pow (by omega)]))
  rw [h.model.map_pow, h.model.map_one, ← hx, ← pow_mul, Nat.mul_div_cancel' (dvd_pow_pred hn hpn _),
    h.field.pow_card_pred hp hx0]

/-- A power `p^k` of the root of an extension of degree `n` over `K`, by the table of the Frobenius map. -/
theorem TowerFld.root_pow_prime_pow (h : TowerFld p K A φ ok) (hp : p.Prime) {n : Nat} (hn : n.Prime) (hpn : p % n = 1)
    {N : α} (hN : ∀ x, x ^ n ≠ φ N) (k : Nat) :
    AdjoinRoot.root (X ^ n - C (φ N)) ^ p ^ k =
      AdjoinRoot.of _ (φ (K.pow N ((p ^ (k % (n * K.arity)) - 1) / n))) * AdjoinRoot.root (X ^ n - C (φ N)) := by
  rw [(h.field.adjoinRoot hn hN).pow_pow_mod hp, root_pow_of_dvd_pred _ (Nat.one_le_pow _ _ hp.pos)
    (dvd_pow_pred hn.one_lt hpn _), h.model.map_pow]

/-- The norm of an element of a quadratic extension (R183). -/
def quadNorm (K : Fld α) (N : α) (a : Quad α) : α := K.sub (K.mul a.c0 a.c0) (K.mul N (K.mul a.c1 a.c1))

theorem quadExt_inv (N : α) (a : Quad α) : (quadExt p K N).inv a =
    ⟨K.mul a.c0 (K.inv (quadNorm K N a)), K.neg (K.mul a.c1 (K.inv (quadNorm K N a)))⟩ := rfl

theorem quadMap_mul_conjQuad (h : FldModel K A φ ok) (N : α) (a : Quad α) :
    quadMap φ (φ N) a * quadMap φ (φ N) (conjQuad K a) = AdjoinRoot.of _ (φ (quadNorm K N a)) := by
  simp only [quadMap, quadNorm, conjQuad, h.map_sub, h.map_mul, h.map_neg, map_sub, map_mul, map_neg,
    ← root_pow (n := 2) (φ N)]
  ring

theorem quadMap_inv (h : FldModel K A φ ok) (N : α) (a : Quad α) : quadMap φ (φ N) ((quadExt p K N).inv a) =
    quadMap φ (φ N) (conjQuad K a) * AdjoinRoot.of _ (φ (K.inv (quadNorm K N a))) := by
  simp only [quadExt_inv, quadMap, conjQuad, h.map_mul, h.map_neg, map_mul, map_neg]
  ring

theorem quadNorm_ne_zero (h : TowerFld p K A φ ok) {N : α} (hN : ∀ x, x ^ 2 ≠ φ N) {a : Quad α}
    (ha : quadMap φ (φ N) a ≠ 0) : φ (quadNorm K N a) ≠ 0 := by
  simp only [quadNorm, h.model.map_sub, h.model.map_mul]
  exact quad_norm_ne_zero h.field.isField hN fun ⟨h0, h1⟩ => ha (by simp [quadMap, h0, h1])

/-- A quadratic extension by a root of a non-square (R181 to R183). -/
theorem TowerFld.quadExt (h : TowerFld p K A φ ok) (hp : p.Prime) (hpn : p % 2 = 1) {N : α}
    (hN : ∀ x, x ^ 2 ≠ φ N) :
    TowerFld p (quadExt p K N) (AdjoinRoot (X ^ 2 - C (φ N))) (quadMap φ (φ N)) (fun a => ok a.c0 ∧ ok a.c1) where
  model := have := h.field.isField.nontrivial; quadModel h.model p N
  field := h.field.adjoinRoot Nat.prime_two hN
  map_inv a ha := by
    have hinv := h.map_inv _ (quadNorm_ne_zero h hN ha)
    rw [quadMap_inv h.model, ← mul_assoc, quadMap_mul_conjQuad h.model, ← map_mul, hinv, map_one]
  map_frob k a := by
    have hfield := h.field.adjoinRoot Nat.prime_two hN
    simp only [quadMap, Machine.quadExt, h.model.map_mul, h.map_frob, map_mul, map_pow]
    rw [hfield.add_pow_prime_pow hp, mul_pow, h.root_pow_prime_pow hp Nat.prime_two hpn hN]
    ring

/-- The cofactors of an element of a cubic extension, whose product with it is its norm (R203). -/
def cubCofactors (K : Fld α) (N : α) (a : Cub α) : Cub α :=
  ⟨K.sub (K.mul a.c0 a.c0) (K.mul N (K.mul a.c1 a.c2)), K.sub (K.mul N (K.mul a.c2 a.c2)) (K.mul a.c0 a.c1),
    K.sub (K.mul a.c1 a.c1) (K.mul a.c0 a.c2)⟩

/-- The norm of an element of a cubic extension (R203). -/
def cubNorm (K : Fld α) (N : α) (a : Cub α) : α :=
  K.add (K.mul a.c0 (cubCofactors K N a).c0)
    (K.mul N (K.add (K.mul a.c2 (cubCofactors K N a).c1) (K.mul a.c1 (cubCofactors K N a).c2)))

theorem cubExt_inv (N : α) (a : Cub α) : (cubExt p K N).inv a =
    ⟨K.mul (cubCofactors K N a).c0 (K.inv (cubNorm K N a)), K.mul (cubCofactors K N a).c1 (K.inv (cubNorm K N a)),
      K.mul (cubCofactors K N a).c2 (K.inv (cubNorm K N a))⟩ := rfl

theorem cubMap_mul_cubCofactors (h : FldModel K A φ ok) (N : α) (a : Cub α) :
    cubMap φ (φ N) a * cubMap φ (φ N) (cubCofactors K N a) = AdjoinRoot.of _ (φ (cubNorm K N a)) := by
  simp only [cubMap, cubNorm, cubCofactors, h.map_add, h.map_sub, h.map_mul, map_add, map_sub, map_mul,
    ← root_pow (n := 3) (φ N)]
  ring

theorem cubMap_inv (h : FldModel K A φ ok) (N : α) (a : Cub α) : cubMap φ (φ N) ((cubExt p K N).inv a) =
    cubMap φ (φ N) (cubCofactors K N a) * AdjoinRoot.of _ (φ (K.inv (cubNorm K N a))) := by
  simp only [cubExt_inv, cubMap, h.map_mul, map_mul]
  ring

/-- A cubic extension is a domain, so that with the norm the element or its cofactors would be zero. -/
theorem cubNorm_ne_zero (h : TowerFld p K A φ ok) {N : α} (hN : ∀ x, x ^ 3 ≠ φ N) {a : Cub α}
    (ha : cubMap φ (φ N) a ≠ 0) : φ (cubNorm K N a) ≠ 0 := by
  intro h0
  have hA := h.field.isField
  have := hA.nontrivial
  have := (h.field.adjoinRoot Nat.prime_three hN).isField.isDomain
  have hmodel := h.model
  have hcof : cubMap φ (φ N) (cubCofactors K N a) = 0 := by
    have hprod := cubMap_mul_cubCofactors hmodel N a
    rw [h0, map_zero] at hprod
    exact (mul_eq_zero.1 hprod).resolve_left ha
  have hzero := ((cubModel hmodel p N).eq_zero_iff ⟨hmodel.sub_ok _ _, hmodel.sub_ok _ _, hmodel.sub_ok _ _⟩).2 hcof
  obtain ⟨e0, e1, e2⟩ := Cub.mk.inj hzero
  have toRing : ∀ {b : α}, b = K.zero → φ b = 0 := fun e => by rw [e, hmodel.map_zero]
  obtain ⟨x0, y0, z0⟩ := cub_cofactors_eq_zero hA hN (by simpa only [hmodel.map_sub, hmodel.map_mul] using toRing e0)
    (by simpa only [hmodel.map_sub, hmodel.map_mul] using toRing e1)
    (by simpa only [hmodel.map_sub, hmodel.map_mul] using toRing e2)
  exact ha (by simp [cubMap, x0, y0, z0])

/-- A cubic extension by a root of a non-cube (R201 to R203). -/
theorem TowerFld.cubExt (h : TowerFld p K A φ ok) (hp : p.Prime) (hpn : p % 3 = 1) {N : α}
    (hN : ∀ x, x ^ 3 ≠ φ N) :
    TowerFld p (cubExt p K N) (AdjoinRoot (X ^ 3 - C (φ N))) (cubMap φ (φ N))
      (fun a => ok a.c0 ∧ ok a.c1 ∧ ok a.c2) where
  model := have := h.field.isField.nontrivial; cubModel h.model p N
  field := h.field.adjoinRoot Nat.prime_three hN
  map_inv a ha := by
    have hinv := h.map_inv _ (cubNorm_ne_zero h hN ha)
    rw [cubMap_inv h.model, ← mul_assoc, cubMap_mul_cubCofactors h.model, ← map_mul, hinv, map_one]
  map_frob k a := by
    have hdvd := dvd_pow_pred (by decide : 1 < 3) hpn (k % (3 * K.arity))
    have hfield := h.field.adjoinRoot Nat.prime_three hN
    simp only [cubMap, Machine.cubExt, h.model.map_mul, h.map_frob, map_mul, map_pow, Nat.mul_div_assoc 2 hdvd]
    rw [hfield.add_pow_prime_pow hp, hfield.add_pow_prime_pow hp, mul_pow, mul_pow, pow_right_comm,
      h.root_pow_prime_pow hp Nat.prime_three hpn hN]
    simp only [h.model.map_pow, map_pow]
    ring

end

/-! ### Fp2 and Fp3 (R9) -/

section
variable {c : Config}

/-- What the check of the configuration says of the towers over the base field. -/
theorem lower_tower_facts (h : c.WF) :
    (c.nr2 < c.p ∧ (c.hasFp2 = true → notPower (fp c) c.p 2 c.nr2 = true)) ∧
    (c.nr3 < c.p ∧ (c.hasFp3 = true → c.p % 3 = 1 ∧ notPower (fp c) c.p 3 c.nr3 = true)) := by
  have ht : towersOk c = true := by
    have hw := h.2
    simp only [Config.wfCheck, Bool.and_eq_true] at hw
    exact hw.2.1
  simp only [towersOk, Bool.and_eq_true, Bool.or_eq_true, Bool.not_eq_true', inFp, decide_eq_true_eq,
    beq_iff_eq] at ht
  obtain ⟨⟨⟨⟨⟨⟨h2, hnot2⟩, h3⟩, hnot3⟩, _⟩, _⟩, _⟩ := ht
  exact ⟨⟨h2, fun hf => hnot2.resolve_left (by simp [hf])⟩, h3, fun hf => hnot3.resolve_left (by simp [hf])⟩

theorem towerFld_fp (h : c.WF) : TowerFld c.p (fp c) (Spec.A1 c) (fun x => (x : Spec.A1 c)) (· < c.p) :=
  towerFld_fpOps h.1

theorem towerFld_fp2 (h : c.WF) (hf : c.hasFp2 = true) :
    TowerFld c.p (fp2 c) (Spec.A2 c) (fun a => Spec.el2 c a.c0 a.c1) (ok2 c) := by
  obtain ⟨⟨hlt, hnot⟩, -⟩ := lower_tower_facts h
  have hodd : c.p % 2 = 1 := (modulus_facts h.2).1
  have hfp := towerFld_fp h
  have hext := hfp.quadExt h.1 hodd (hfp.ne_pow_of_notPower h.1 one_lt_two hodd (pow_one _).symm hlt (hnot hf))
  have e : (fun a : F2 => Spec.el2 c a.c0 a.c1) = quadMap (fun x : Nat => (x : Spec.A1 c)) (c.nr2 : Spec.A1 c) := by
    funext a
    simp [quadMap, Spec.el2]
  rw [e]
  exact hext

theorem towerFld_fp3 (h : c.WF) (hf : c.hasFp3 = true) :
    TowerFld c.p (fp3 c) (Spec.A3 c) (fun a => Spec.el3 c a.c0 a.c1 a.c2) (ok3 c) := by
  obtain ⟨-, hlt, hnot⟩ := lower_tower_facts h
  obtain ⟨hp3, hnot⟩ := hnot hf
  have hfp := towerFld_fp h
  have hext := hfp.cubExt h.1 hp3 (hfp.ne_pow_of_notPower h.1 (by decide) hp3 (pow_one _).symm hlt hnot)
  have e : (fun a : F3 => Spec.el3 c a.c0 a.c1 a.c2) = cubMap (fun x : Nat => (x : Spec.A1 c)) (c.nr3 : Spec.A1 c) := by
    funext a
    simp [cubMap, Spec.el3]
  rw [e]
  exact hext

end

/-! ## Elements in cells (R25) -/

/-- A property of the cells of two elements side by side. -/
theorem forall_cells_add_iff {P : Nat → Prop} (m n : Nat) :
    (∀ i < m + n, P i) ↔ (∀ i < m, P i) ∧ ∀ i < n, P (m + i) := by
  refine ⟨fun hP => ⟨fun i hi => hP i (by omega), fun i hi => hP _ (by omega)⟩, fun ⟨hlow, hhigh⟩ i hi => ?_⟩
  by_cases hm : i < m
  · exact hlow i hm
  · have := hhigh (i - m) (by omega)
    rwa [Nat.add_sub_cancel' (by omega)] at this

/-- An element of `K` and the contents of its `n` cells determine each other. -/
structure CellLayout {α : Type} (K : Fld α) (n : Nat) : Prop extends Occupies K n where
  get_eq_iff : ∀ (v w : Nat → Nat) (b d : Nat), K.get v b = K.get w d ↔ ∀ i < n, v (b + i) = w (d + i)
  get_put : ∀ a, K.get (fun i => (K.put a).getD i 0) 0 = a
  get_zeros : K.get (fun _ => 0) 0 = K.zero

section
variable {α : Type} {K : Fld α} {n : Nat} (h : CellLayout K n)
include h

theorem CellLayout.get_eq_of_cells {v : Nat → Nat} {b : Nat} {a : α}
    (hv : ∀ i < n, v (b + i) = (K.put a).getD i 0) : K.get v b = a := by
  rw [← h.get_put a, h.get_eq_iff]
  simpa using hv

theorem CellLayout.get_eq_zero_iff (v : Nat → Nat) (b : Nat) : K.get v b = K.zero ↔ ∀ i < n, v (b + i) = 0 := by
  rw [← h.get_zeros, h.get_eq_iff]

/-- An element written between other contents is read back from where it begins. -/
theorem CellLayout.get_segment {vs pre post : List Nat} {b : Nat} {a : α} (hvs : vs = pre ++ (K.put a ++ post))
    (hb : pre.length = b) : K.get (fun i => vs.getD i 0) b = a :=
  h.get_eq_of_cells fun i hi => by
    rw [hvs, List.getD_append_right _ _ _ _ (by omega), hb, Nat.add_sub_cancel_left,
      List.getD_append _ _ _ _ (by rwa [h.put_length])]

theorem CellLayout.quadExt (p : Nat) (N : α) : CellLayout (quadExt p K N) (2 * n) where
  toOccupies := h.toOccupies.quadExt p N
  get_eq_iff v w b d := by
    simp only [Machine.quadExt, Quad.mk.injEq, h.get_eq_iff, h.arity, two_mul, forall_cells_add_iff, Nat.add_assoc]
  get_put a := by
    have get0 := h.get_segment (vs := K.put a.c0 ++ K.put a.c1) (pre := []) (b := 0) (a := a.c0) rfl rfl
    have get1 := h.get_segment (vs := K.put a.c0 ++ K.put a.c1) (a := a.c1) (b := 0 + K.arity) (post := [])
      (by rw [List.append_nil]) (by rw [h.put_length, h.arity, Nat.zero_add])
    exact congrArg₂ Quad.mk get0 get1
  get_zeros := by
    simp only [Machine.quadExt, Quad.mk.injEq, h.get_eq_zero_iff, implies_true, and_self]

theorem CellLayout.cubExt (p : Nat) (N : α) : CellLayout (cubExt p K N) (3 * n) where
  toOccupies := h.toOccupies.cubExt p N
  get_eq_iff v w b d := by
    have : 3 * n = n + n + n := by omega
    simp only [Machine.cubExt, Cub.mk.injEq, h.get_eq_iff, h.arity, this, two_mul, forall_cells_add_iff, Nat.add_assoc]
  get_put a := by
    have get0 := h.get_segment (vs := K.put a.c0 ++ K.put a.c1 ++ K.put a.c2) (pre := []) (b := 0) (a := a.c0)
      (List.append_assoc _ _ _) rfl
    have get1 := h.get_segment (vs := K.put a.c0 ++ K.put a.c1 ++ K.put a.c2) (a := a.c1) (b := 0 + K.arity)
      (List.append_assoc _ _ _) (by rw [h.put_length, h.arity, Nat.zero_add])
    have get2 := h.get_segment (vs := K.put a.c0 ++ K.put a.c1 ++ K.put a.c2) (a := a.c2) (b := 0 + 2 * K.arity)
      (post := []) (by rw [List.append_nil])
      (by rw [List.length_append, h.put_length, h.put_length, h.arity, Nat.zero_add, two_mul])
    simp only [Machine.cubExt]
    rw [get0, get1, get2]
  get_zeros := by
    simp only [Machine.cubExt, Cub.mk.injEq, h.get_eq_zero_iff, implies_true, and_self]

end

section
variable (c : Config)

theorem cellLayout_fp : CellLayout (fp c) 1 where
  toOccupies := occupies_fp c
  get_eq_iff _ _ _ _ := by simp [fp, fpOps]
  get_put _ := rfl
  get_zeros := rfl

theorem cellLayout_fp2 : CellLayout (fp2 c) 2 := (cellLayout_fp c).quadExt _ _

theorem cellLayout_fp3 : CellLayout (fp3 c) 3 := (cellLayout_fp c).cubExt _ _

theorem cellLayout_fp6Over2 (n : F2) : CellLayout (fp6Over2 c n) 6 := (cellLayout_fp2 c).cubExt _ _

theorem cellLayout_fp6Over3 (n : F3) : CellLayout (fp6Over3 c n) 6 := (cellLayout_fp3 c).quadExt _ _

theorem cellLayout_fp12 : CellLayout (fp12 c) 12 := (cellLayout_fp6Over2 c _).quadExt _ _

end

/-! ## The commands on the elements of a tower -/

section
variable {α : Type} {K : Fld α} {ok : α → Prop} {n : Nat} {s : State} {rd rs1 rs2 : CellIdx}

/-- An element written to a destination is what the cells then hold (R13, R25). -/
theorem writeElem_next {o : Out} {a : α} (hs : Sound s) (hK : CellFld s.cfg.p K ok) (hL : CellLayout K n)
    (hd : Dest rd n) (ha : ok a) (ho : o = .next (complete (writeElem K s rd.toNat a))) :
    ∃ t, o = .next t ∧ OnlyCells s t rd n ∧ K.get (canon t) rd.toNat = a := by
  have hlen := hL.put_length a
  have hfit : rd.toNat + (K.put a).length ≤ 128 := by rwa [hlen]
  have hlt := hK.put_lt a ha
  refine ⟨_, ho, ?_, hL.get_eq_of_cells fun i hi => ?_⟩
  · have honly := onlyCells_setValues s rd _ hfit fun v hv => rep_lt hs.1 (hlt v hv)
    rwa [hlen] at honly
  · rw [canon_complete, canon, writeElem, rawCell_setValues s _ _ hfit, if_pos (by omega), Nat.add_sub_cancel_left,
      List.getD_eq_getElem _ _ (by omega), setValues_cfg]
    exact val_rep hs.1 (hlt _ (List.getElem_mem _))

section
variable {A : Type} {φ : α → A} {ev : (Nat → Nat) → Nat → A}
  (hs : Sound s) (hK : CellFld s.cfg.p K ok) (hL : CellLayout K n) (hev : ∀ v b, ev v b = φ (K.get v b))
include hs hK hL hev

/-- A command of two elements whose value rule is `g` in the ring. -/
theorem elemOp2_next {op : α → α → α} {g : A → A → A} (hok : ∀ a b, ok (op a b))
    (hmap : ∀ a b, φ (op a b) = g (φ a) (φ b)) (hd : Dest rd n) (h1 : Source s rs1 n) (h2 : Source s rs2 n) :
    ∃ t, elemOp2 true K op rd rs1 rs2 s = .next t ∧ OnlyCells s t rd n ∧
      ev (canon t) rd.toNat = g (ev (canon s) rs1.toNat) (ev (canon s) rs2.toNat) := by
  obtain ⟨t, ht, honly, hget⟩ := writeElem_next hs hK hL hd (hok _ _)
    (elemOp2_eq (hL.arity ▸ hd) (hL.arity ▸ h1) (hL.arity ▸ h2))
  refine ⟨t, ht, honly, ?_⟩
  rw [hev, hget, hmap, hev, hev]
  rfl

/-- A command of one element whose value rule answers `b`. -/
theorem elemOp1?_next {op : α → Except FaultCode α} {b : α} (hop : op (readElem K s rs1.toNat) = .ok b) (hb : ok b)
    (hd : Dest rd n) (h1 : Source s rs1 n) :
    ∃ t, elemOp1? true K op rd rs1 s = .next t ∧ OnlyCells s t rd n ∧ ev (canon t) rd.toNat = φ b := by
  obtain ⟨t, ht, honly, hget⟩ := writeElem_next hs hK hL hd hb (elemOp1?_ok (hL.arity ▸ hd) (hL.arity ▸ h1) hop)
  exact ⟨t, ht, honly, by rw [hev, hget]⟩

/-- A command of one element whose value rule is `g` in the ring. -/
theorem elemOp1_next {op : α → α} {g : A → A} (hok : ∀ a, ok a → ok (op a)) (hmap : ∀ a, φ (op a) = g (φ a))
    (hd : Dest rd n) (h1 : Source s rs1 n) :
    ∃ t, elemOp1 true K op rd rs1 s = .next t ∧ OnlyCells s t rd n ∧
      ev (canon t) rd.toNat = g (ev (canon s) rs1.toNat) := by
  obtain ⟨t, ht, honly, hval⟩ := elemOp1?_next (op := fun a => .ok (op a)) hs hK hL hev rfl
    (hok _ (readElem_base_ok hK hs (hL.arity ▸ h1))) hd h1
  refine ⟨t, ht, honly, ?_⟩
  rw [hval, hmap, hev]
  rfl

variable [CommRing A] {feature : Bool} (hf : feature = true)
include hf

/-- The five commands of a ring, in any tower (R184 to R188, R204 to R208). -/
theorem ringCommands {add sub mul : CellIdx → CellIdx → CellIdx → Instr} {sqr neg : CellIdx → CellIdx → Instr}
    (hm : FldModel K A φ ok)
    (hadd : ∀ rd rs1 rs2, exec (add rd rs1 rs2) s = elemOp2 feature K K.add rd rs1 rs2 s)
    (hsub : ∀ rd rs1 rs2, exec (sub rd rs1 rs2) s = elemOp2 feature K K.sub rd rs1 rs2 s)
    (hmul : ∀ rd rs1 rs2, exec (mul rd rs1 rs2) s = elemOp2 feature K K.mul rd rs1 rs2 s)
    (hsqr : ∀ rd rs1, exec (sqr rd rs1) s = elemOp1 feature K K.sqr rd rs1 s)
    (hneg : ∀ rd rs1, exec (neg rd rs1) s = elemOp1 feature K K.neg rd rs1 s) :
    Spec.RingCommands s n ev add sub mul sqr neg := by
  subst hf
  intro rd rs1 rs2 hd h1
  rw [hadd, hsub, hmul, hsqr, hneg]
  exact ⟨fun h2 =>
      ⟨elemOp2_next hs hK hL hev hm.add_ok hm.map_add hd h1 h2,
        elemOp2_next hs hK hL hev hm.sub_ok hm.map_sub hd h1 h2,
        elemOp2_next hs hK hL hev hm.mul_ok hm.map_mul hd h1 h2⟩,
    elemOp1_next hs hK hL hev (fun a _ => hm.sqr_ok a) (g := (· ^ 2)) hm.map_sqr hd h1,
    elemOp1_next hs hK hL hev (fun a _ => hm.neg_ok a) (g := (- ·)) hm.map_neg hd h1⟩

/-- The inverse in any tower: an element is zero exactly when its cells are (R189, R209). -/
theorem inverseCommand [DecidableEq α] {inv : CellIdx → CellIdx → Instr} (hT : TowerFld s.cfg.p K A φ ok)
    (hinv : ∀ rd rs1, exec (inv rd rs1) s = elemOp1? feature K (invOrFault K) rd rs1 s) :
    Spec.InverseCommand s n ev inv := by
  subst hf
  intro rd rs1 hd h1
  have hzero := hL.get_eq_zero_iff (canon s) rs1.toNat
  rw [hinv]
  constructor
  · intro h0
    exact elemOp1?_error (c := .invzero) (hL.arity ▸ hd) (hL.arity ▸ h1) (if_pos (hzero.2 h0))
  · rintro ⟨i, hi, hne⟩
    have h0 : readElem K s rs1.toNat ≠ K.zero := fun e => hne (hzero.1 e i hi)
    have hφ : φ (readElem K s rs1.toNat) ≠ 0 := fun e =>
      h0 ((hT.model.eq_zero_iff (readElem_base_ok hK hs (hL.arity ▸ h1))).2 e)
    obtain ⟨t, ht, honly, hval⟩ := elemOp1?_next hs hK hL hev (op := invOrFault K) (if_neg h0) (hK.inv_ok _) hd h1
    refine ⟨t, ht, honly, ?_⟩
    rw [hval, hev]
    exact hT.map_inv _ hφ

/-- The Frobenius map in any tower (R190, R210). -/
theorem frobeniusCommand {frob : CellIdx → CellIdx → BitVec 7 → Instr} (hT : TowerFld s.cfg.p K A φ ok)
    (hfrob : ∀ rd rs1 pow, exec (frob rd rs1 pow) s = elemOp1 feature K (K.frob pow.toNat) rd rs1 s) :
    Spec.FrobeniusCommand s n ev frob := by
  subst hf
  intro rd rs1 pow hd h1
  rw [hfrob]
  exact elemOp1_next hs hK hL hev (fun a => hK.frob_ok pow.toNat a) (g := (· ^ s.cfg.p ^ pow.toNat))
    (hT.map_frob pow.toNat) hd h1

end

/-- The tests in any tower, coordinate by coordinate (R191, R192, R211, R212, R232, R233, R251, R252). -/
theorem testCommands [DecidableEq α] {feature : Bool} {isz : CellIdx → Instr} {eq : CellIdx → CellIdx → Instr}
    (hL : CellLayout K n) (hf : feature = true)
    (hisz : ∀ rs1, exec (isz rs1) s = testOp1 feature (elemSpan K rs1) (elemIsZero K rs1) s)
    (heq : ∀ rs1 rs2, exec (eq rs1 rs2) s =
      testOp2 feature (elemSpan K rs1) (elemSpan K rs2) (elemEq K rs1 rs2) s) :
    Spec.TestCommands s n isz eq := by
  subst hf
  intro rs1 rs2 h1
  rw [hisz, heq, elemSpan, elemSpan, hL.arity]
  exact ⟨testOp1_next h1 (beq_iff_eq.trans (hL.get_eq_zero_iff _ _)),
    fun h2 => testOp2_next h1 h2 (beq_iff_eq.trans (hL.get_eq_iff _ _ _ _))⟩

end

/-! Fp6 in either kind (R96, R220, R221). -/

section
variable {s : State} (run : {α : Type} → [DecidableEq α] → Fld α → Out)

theorem onFp6_over2 {n : F2} (h : s.cfg.f6 = .over2 n) : onFp6 s run = run (fp6Over2 s.cfg n) := by
  simp only [onFp6, h]

theorem onFp6_over3 {n : F3} (h : s.cfg.f6 = .over3 n) : onFp6 s run = run (fp6Over3 s.cfg n) := by
  simp only [onFp6, h]

end

theorem testCommands_fp6 {α : Type} [DecidableEq α] {K : Fld α} {s : State} (hL : CellLayout K 6)
    (h : ∀ run : {α : Type} → [DecidableEq α] → Fld α → Out, onFp6 s run = run K) :
    Spec.TestCommands s 6 .f6isz .f6eq :=
  testCommands hL rfl (fun rs1 => h fun K => testOp1 true (elemSpan K rs1) (elemIsZero K rs1) s)
    fun rs1 rs2 => h fun K => testOp2 true (elemSpan K rs1) (elemSpan K rs2) (elemEq K rs1 rs2) s

/-! ## The obligations -/

/-- Settles O37: `quadExt` and `cubExt` compute in the quotient rings, coordinate by coordinate. -/
theorem lowerTowerArithmetic : Obligations.LowerTowerArithmetic := fun _ hs =>
  ⟨fun h2 => ringCommands hs (cellFld_fp2 hs.1) (cellLayout_fp2 _) (fun _ _ => rfl) h2 (fp2Model hs.1.1.one_lt)
      (fun _ _ _ => rfl) (fun _ _ _ => rfl) (fun _ _ _ => rfl) (fun _ _ => rfl) fun _ _ => rfl,
    fun h3 => ringCommands hs (cellFld_fp3 hs.1) (cellLayout_fp3 _) (fun _ _ => rfl) h3 (fp3Model hs.1.1.one_lt)
      (fun _ _ _ => rfl) (fun _ _ _ => rfl) (fun _ _ _ => rfl) (fun _ _ => rfl) fun _ _ => rfl⟩

/-- Settles O40: the norm of a nonzero element is invertible in the field below, as the field's constant is no
square or no cube. -/
theorem lowerTowerInverses : Obligations.LowerTowerInverses := fun _ hs =>
  ⟨fun h2 => inverseCommand hs (cellFld_fp2 hs.1) (cellLayout_fp2 _) (fun _ _ => rfl) h2 (towerFld_fp2 hs.1 h2)
      fun _ _ => rfl,
    fun h3 => inverseCommand hs (cellFld_fp3 hs.1) (cellLayout_fp3 _) (fun _ _ => rfl) h3 (towerFld_fp3 hs.1 h3)
      fun _ _ => rfl⟩

/-- Settles O42: the tables hold the powers `p^k` of the roots, which depend on `k` modulo the degree. -/
theorem lowerTowerFrobenius : Obligations.LowerTowerFrobenius := fun _ hs =>
  ⟨fun h2 => frobeniusCommand hs (cellFld_fp2 hs.1) (cellLayout_fp2 _) (fun _ _ => rfl) h2 (towerFld_fp2 hs.1 h2)
      fun _ _ _ => rfl,
    fun h3 => frobeniusCommand hs (cellFld_fp3 hs.1) (cellLayout_fp3 _) (fun _ _ => rfl) h3 (towerFld_fp3 hs.1 h3)
      fun _ _ _ => rfl⟩

/-- Settles O44: elements are equal when their cells are, in each tower. -/
theorem towerTests : Obligations.TowerTests := by
  intro s _
  refine ⟨fun h2 => testCommands (cellLayout_fp2 _) h2 (fun _ => rfl) fun _ _ => rfl,
    fun h3 => testCommands (cellLayout_fp3 _) h3 (fun _ => rfl) fun _ _ => rfl, fun h6 => ?_,
    fun h12 => testCommands (cellLayout_fp12 _) h12 (fun _ => rfl) fun _ _ => rfl⟩
  cases hf : s.cfg.f6 with
  | none => exact absurd hf h6
  | over2 n => exact testCommands_fp6 (cellLayout_fp6Over2 _ n) fun run => onFp6_over2 run hf
  | over3 n => exact testCommands_fp6 (cellLayout_fp6Over3 _ n) fun run => onFp6_over3 run hf

end Sys2Proof.Machine

/-! PROOFS. The upper towers (43_towers_fp6_fp12.md): Fp6 in both kinds and Fp12 are finite fields over the level below,
and what the commands on their elements and the cyclotomic commands write. -/

namespace Sys2Proof.Machine

/-! ## Fp6 and Fp12 are levels of the towers (R220 to R224, R240 to R243) -/

/-- Every coordinate of an Fp6 value (2-over-3) is canonical. -/
def ok6b (c : Config) (a : F6Over3) : Prop := ok3 c a.c0 ∧ ok3 c a.c1

/-- An element of the 2-over-3 Fp6 in its ring. -/
noncomputable def el6bOf (c : Config) (n : F3) (a : F6Over3) : Spec.A6b c n :=
  Spec.el6b c n (Spec.el3 c a.c0.c0 a.c0.c1 a.c0.c2) (Spec.el3 c a.c1.c0 a.c1.c1 a.c1.c2)

/-- An element of Fp12 in its ring. -/
noncomputable def el12Of (c : Config) (n : F2) (a : F12) : Spec.A12 c n :=
  Spec.el12 c n (el6Of c n a.c0) (el6Of c n a.c1)

section
variable {c : Config} (h : c.WF)
include h

/-- What the check of the configuration says of the towers over Fp2 and Fp3 (R9, rows `F6KIND` to `NR12`). -/
theorem upper_tower_facts : f6Ok c = true ∧ inFp6Over2 c c.nr12 = true ∧
    (c.hasFp12 = true → notPower (fp6Over2 c (nr6Over2 c)) (c.p ^ 6) 2 c.nr12 = true) := by
  have ht : towersOk c = true := by
    have hw := h.2
    simp only [Config.wfCheck, Bool.and_eq_true] at hw
    exact hw.2.1
  simp only [towersOk, Bool.and_eq_true, Bool.or_eq_true, Bool.not_eq_true'] at ht
  obtain ⟨⟨⟨_, h6⟩, hlt⟩, h12⟩ := ht
  exact ⟨h6, hlt, fun hf => (h12.resolve_left (by simp [hf])).2⟩

theorem nr6_over2_facts {n : F2} (hf : c.f6 = .over2 n) :
    c.hasFp2 = true ∧ c.p % 3 = 1 ∧ ok2 c n ∧ notPower (fp2 c) (c.p ^ 2) 3 n = true := by
  have h6 := (upper_tower_facts h).1
  simp only [f6Ok, hf, Bool.and_eq_true, beq_iff_eq, inFp2, inFp, decide_eq_true_eq] at h6
  obtain ⟨⟨⟨⟨h2, hp3⟩, hlt⟩, _⟩, hcube⟩ := h6
  exact ⟨h2, hp3, hlt, hcube⟩

theorem nr6_over3_facts {n : F3} (hf : c.f6 = .over3 n) :
    c.hasFp3 = true ∧ ok3 c n ∧ notPower (fp3 c) (c.p ^ 3) 2 n = true := by
  have h6 := (upper_tower_facts h).1
  simp only [f6Ok, hf, Bool.and_eq_true, inFp3, inFp, decide_eq_true_eq, and_assoc] at h6
  obtain ⟨h3, h0, h1, h2, hsquare⟩ := h6
  exact ⟨h3, ⟨h0, h1, h2⟩, hsquare⟩

theorem nr12_ok : ok6 c c.nr12 := by
  have hlt := (upper_tower_facts h).2.1
  simp only [inFp6Over2, inFp2, inFp, Bool.and_eq_true, decide_eq_true_eq, and_assoc] at hlt
  obtain ⟨h0, h1, h2, h3, h4, h5⟩ := hlt
  exact ⟨⟨h0, h1⟩, ⟨h2, h3⟩, h4, h5⟩

/-- The 3-over-2 Fp6: NR6 is no cube in Fp2. -/
theorem towerFld_fp6Over2 {n : F2} (hf : c.f6 = .over2 n) :
    TowerFld c.p (fp6Over2 c n) (Spec.A6 c n) (el6Of c n) (ok6 c) := by
  obtain ⟨h2, hp3, hlt, hnot⟩ := nr6_over2_facts h hf
  have hfp2 := towerFld_fp2 h h2
  exact hfp2.cubExt h.1 hp3 (hfp2.ne_pow_of_notPower h.1 (by decide) hp3 rfl hlt hnot)

/-- The 2-over-3 Fp6: NR6 is no square in Fp3. -/
theorem towerFld_fp6Over3 {n : F3} (hf : c.f6 = .over3 n) :
    TowerFld c.p (fp6Over3 c n) (Spec.A6b c n) (el6bOf c n) (ok6b c) := by
  obtain ⟨h3, hlt, hnot⟩ := nr6_over3_facts h hf
  have hodd := (modulus_facts h.2).1
  have hfp3 := towerFld_fp3 h h3
  exact hfp3.quadExt h.1 hodd (hfp3.ne_pow_of_notPower h.1 one_lt_two hodd rfl hlt hnot)

/-- Fp12: NR12 is no square in Fp6. -/
theorem towerFld_fp12 {n : F2} (hf : c.f6 = .over2 n) (h12 : c.hasFp12 = true) :
    TowerFld c.p (fp12 c) (Spec.A12 c n) (el12Of c n) (ok12 c) := by
  have hn : nr6Over2 c = n := by simp [nr6Over2, hf]
  have hnot := (upper_tower_facts h).2.2 h12
  have hodd := (modulus_facts h.2).1
  have hfp6 := towerFld_fp6Over2 h hf
  rw [fp12, hn]
  rw [hn] at hnot
  exact hfp6.quadExt h.1 hodd (hfp6.ne_pow_of_notPower h.1 one_lt_two hodd rfl (nr12_ok h) hnot)

end

/-! ## The elements that cells hold (R25) -/

section
variable (c : Config) (v : Nat → Nat) (b : Nat)

theorem ev6_eq_el6Of (n : F2) : Spec.ev6 c n v b = el6Of c n ((fp6Over2 c n).get v b) := rfl

theorem ev6b_eq_el6bOf (n : F3) : Spec.ev6b c n v b = el6bOf c n ((fp6Over3 c n).get v b) := rfl

theorem ev12_eq_el12Of (n : F2) : Spec.ev12 c n v b = el12Of c n ((fp12 c).get v b) := rfl

end

/-! ## The commands of Fp6, in the kind that is present (R225 to R231) -/

section
variable {α : Type} [DecidableEq α] {K : Fld α} {ok : α → Prop} {A : Type} [CommRing A] {φ : α → A} {s : State}
  {ev : (Nat → Nat) → Nat → A} (hs : Sound s)
  (hkind : ∀ run : {α : Type} → [DecidableEq α] → Fld α → Out, onFp6 s run = run K)
  (hK : CellFld s.cfg.p K ok) (hL : CellLayout K 6) (hev : ∀ v b, ev v b = φ (K.get v b))
include hs hkind hK hL hev

theorem ringCommands_fp6 (hm : FldModel K A φ ok) :
    Spec.RingCommands s 6 ev .f6add .f6sub .f6mul .f6sqr .f6neg :=
  ringCommands hs hK hL hev rfl hm
    (fun rd rs1 rs2 => hkind fun K => elemOp2 true K K.add rd rs1 rs2 s)
    (fun rd rs1 rs2 => hkind fun K => elemOp2 true K K.sub rd rs1 rs2 s)
    (fun rd rs1 rs2 => hkind fun K => elemOp2 true K K.mul rd rs1 rs2 s)
    (fun rd rs1 => hkind fun K => elemOp1 true K K.sqr rd rs1 s)
    fun rd rs1 => hkind fun K => elemOp1 true K K.neg rd rs1 s

variable (hT : TowerFld s.cfg.p K A φ ok)
include hT

theorem inverseCommand_fp6 : Spec.InverseCommand s 6 ev .f6inv :=
  inverseCommand hs hK hL hev rfl hT fun rd rs1 => hkind fun K => elemOp1? true K (invOrFault K) rd rs1 s

theorem frobeniusCommand_fp6 : Spec.FrobeniusCommand s 6 ev .f6frob :=
  frobeniusCommand hs hK hL hev rfl hT fun rd rs1 pow => hkind fun K => elemOp1 true K (K.frob pow.toNat) rd rs1 s

end

/-! ## Conjugation, cell by cell (R241, R253) -/

/-- The negative of an element is read from the negatives of its cells. -/
def NegatesCells {α : Type} (p : Nat) (K : Fld α) : Prop :=
  ∀ (v : Nat → Nat) (b : Nat), K.neg (K.get v b) = K.get (fun i => (p - v i % p) % p) b

section
variable {α : Type} {p : Nat} {K : Fld α}

theorem negatesCells_fpOps (p : Nat) : NegatesCells p (fpOps p) := fun _ _ => rfl

theorem NegatesCells.quadExt (h : NegatesCells p K) (N : α) : NegatesCells p (quadExt p K N) := fun v b =>
  congrArg₂ Quad.mk (h v b) (h v (b + K.arity))

theorem NegatesCells.cubExt (h : NegatesCells p K) (N : α) : NegatesCells p (cubExt p K N) := fun v b => by
  simp only [Machine.cubExt, h v]

end

theorem negatesCells_fp6Over2 (c : Config) (n : F2) : NegatesCells c.p (fp6Over2 c n) :=
  ((negatesCells_fpOps c.p).quadExt _).cubExt _

theorem neg_mod_add_mod {p : Nat} (hp : 0 < p) (x : Nat) : ((p - x % p) % p + x) % p = 0 := by
  have hlt := Nat.mod_lt x hp
  rw [Nat.mod_add_mod, ← Nat.add_mod_mod, Nat.sub_add_cancel hlt.le, Nat.mod_self]

/-- The cells of a conjugate: the first six values stay, the last six are negated. -/
theorem cells_of_get_eq_conj12 {c : Config} (hp : 0 < c.p) {v w : Nat → Nat} {b d : Nat}
    (h : (fp12 c).get v b = conj12 c ((fp12 c).get w d)) :
    (∀ i < 6, v (b + i) = w (d + i)) ∧ ∀ i < 6, (v (b + 6 + i) + w (d + 6 + i)) % c.p = 0 := by
  have hL := cellLayout_fp6Over2 c (nr6Over2 c)
  obtain ⟨h0, h1⟩ := Quad.mk.inj h
  refine ⟨(hL.get_eq_iff v w b d).1 h0, fun i hi => ?_⟩
  have hneg := h1.trans (negatesCells_fp6Over2 c _ w (d + 6))
  rw [(hL.get_eq_iff v _ (b + 6) (d + 6)).1 hneg i hi]
  exact neg_mod_add_mod hp _

/-! ## Cyclotomic operations (R350, R351) -/

section
variable {c : Config} {n : F2}

/-- A product of cyclotomic elements is cyclotomic: it is not zero, as a power of it is 1. -/
theorem cyc_mul {x y : Spec.A12 c n} (hx : Spec.Cyc c n x) (hy : Spec.Cyc c n y) : Spec.Cyc c n (x * y) := by
  obtain ⟨hx0, hx1⟩ := hx
  obtain ⟨-, hy1⟩ := hy
  have hpow : (x * y) ^ Spec.phi12 c = 1 := by rw [mul_pow, hx1, hy1, one_mul]
  have hphi : Spec.phi12 c ≠ 0 := Nat.succ_ne_zero _
  refine ⟨fun h0 => hx0 ?_, hpow⟩
  rw [h0, zero_pow hphi] at hpow
  exact eq_zero_of_zero_eq_one hpow x

variable (h : c.WF) (hf : c.f6 = .over2 n)
include h hf

theorem fp12Model_el12Of : FldModel (fp12 c) (Spec.A12 c n) (el12Of c n) (ok12 c) := fp12Model h.1.one_lt hf

/-- The test of CYC that the model makes is the one of the ring. -/
theorem cyc_iff {a : F12} (ha : ok12 c a) : cyc c a = true ↔ Spec.Cyc c n (el12Of c n a) := by
  have hm := fp12Model_el12Of h hf
  rw [cyc, Bool.and_eq_true, bne_iff_ne, beq_iff_eq, Ne, hm.eq_zero_iff ha, hm.eq_iff (hm.pow_ok _ _) hm.one_ok,
    hm.map_pow, hm.map_one]
  rfl

theorem cycSqr_eq_sqr {a : F12} (ha : ok12 c a) (hcyc : Spec.Cyc c n (el12Of c n a)) :
    cycSqr c a = (fp12 c).sqr a := if_pos ((cyc_iff h hf ha).2 hcyc)

/-- Under CYC the loop of `CycExp` is square-and-multiply: every accumulator is cyclotomic again. -/
theorem cycExpLoop_eq_powLoop {a : F12} (hcyc : Spec.Cyc c n (el12Of c n a)) (e i : Nat) {r : F12} (hr : ok12 c r)
    (hrcyc : Spec.Cyc c n (el12Of c n r)) : cycExpLoop c a e i r = powLoop (fp12 c).mul a e i r := by
  have hm := fp12Model_el12Of h hf
  induction i generalizing r with
  | zero => rfl
  | succ i ih =>
    have hsqr : Spec.Cyc c n (el12Of c n ((fp12 c).mul r r)) := hm.map_mul r r ▸ cyc_mul hrcyc hrcyc
    rw [cycExpLoop, powLoop, cycSqr_eq_sqr h hf hr hrcyc, Fld.sqr]
    cases e.testBit i with
    | false => exact ih (hm.mul_ok _ _) hsqr
    | true => exact ih (hm.mul_ok _ _) (hm.map_mul _ a ▸ cyc_mul hsqr hcyc)

omit h hf in
theorem two_pow_add_mod {e : Nat} (he : e ≠ 0) : 2 ^ (bitlen e - 1) + e % 2 ^ (bitlen e - 1) = e := by
  have hlen : bitlen e = bitlen e - 1 + 1 := by simp [bitlen, he]
  have hlt := lt_two_pow_bitlen e
  rw [hlen, Nat.pow_succ] at hlt
  have hle := two_pow_bitlen_le he
  rw [Nat.mod_eq_sub_mod hle, Nat.mod_eq_of_lt (by omega), Nat.add_sub_cancel' hle]

/-- `CycExp` is the power under CYC, and for the exponents 0 and 1 of any operand (R255, R351). -/
theorem el12Of_cycExp {a : F12} (ha : ok12 c a) {e : Nat} (hcase : Spec.Cyc c n (el12Of c n a) ∨ e < 2) :
    el12Of c n (cycExp c a e) = el12Of c n a ^ e := by
  have hm := fp12Model_el12Of h hf
  by_cases he : e = 0
  · rw [cycExp, if_pos he, he, pow_zero, hm.map_one]
  · rw [cycExp, if_neg he]
    rcases hcase with hcyc | hlt
    · rw [cycExpLoop_eq_powLoop h hf hcyc e _ ha hcyc, powLoop_hom hm.map_mul, ← pow_add, two_pow_add_mod he]
    · obtain rfl : e = 1 := by omega
      rw [pow_one]
      rfl

end

/-- A command of one element and an integer register whose value rule is `op`. -/
theorem elemOpK_next {α A : Type} {K : Fld α} {ok : α → Prop} {n : Nat} {s : State} {rd rs1 : CellIdx} {k : KIdx}
    {φ : α → A} {ev : (Nat → Nat) → Nat → A} {op : α → Nat → α} (hs : Sound s) (hK : CellFld s.cfg.p K ok)
    (hL : CellLayout K n) (hev : ∀ v b, ev v b = φ (K.get v b)) (hok : ∀ a e, ok a → ok (op a e)) (hd : Dest rd n)
    (h1 : Source s rs1 n) (hk : kValid s k = true) :
    ∃ t, elemOpK true K op rd rs1 k s = .next t ∧ OnlyCells s t rd n ∧
      ev (canon t) rd.toNat = φ (op (readElem K s rs1.toNat) (kReg s k)) := by
  have ha := hok _ (kReg s k) (readElem_base_ok hK hs (hL.arity ▸ h1))
  obtain ⟨t, ht, honly, hget⟩ := writeElem_next hs hK hL hd ha (elemOpK_eq (hL.arity ▸ hd) (hL.arity ▸ h1) hk)
  exact ⟨t, ht, honly, by rw [hev, hget]⟩

section
variable {s : State} {n : F2} {rd rs1 : CellIdx} (hs : Sound s) (h12 : s.cfg.hasFp12 = true) (hd : Dest rd 12)
  (h1 : Source s rs1 12)
include hs h12 hd h1

theorem execF12uinv_next : ∃ t, execF12uinv rd rs1 s = .next t ∧ OnlyCells s t rd 12 ∧
    (∀ i < 6, canon t (rd.toNat + i) = canon s (rs1.toNat + i)) ∧
    ∀ i < 6, (canon t (rd.toNat + 6 + i) + canon s (rs1.toNat + 6 + i)) % s.cfg.p = 0 := by
  have hK := cellFld_fp12 hs.1
  rw [execF12uinv, h12]
  obtain ⟨t, ht, honly, hget⟩ := writeElem_next hs hK (cellLayout_fp12 _) hd
    (conj12_ok hs.1 (readElem_base_ok hK hs h1)) (elemOp1_eq hd h1)
  exact ⟨t, ht, honly, cells_of_get_eq_conj12 hs.1.1.pos hget⟩

variable (hf : s.cfg.f6 = .over2 n)
include hf

theorem execF12csqr_next : ∃ t, execF12csqr rd rs1 s = .next t ∧ OnlyCells s t rd 12 ∧
    (Spec.Cyc s.cfg n (Spec.ev12 s.cfg n (canon s) rs1.toNat) →
      Spec.ev12 s.cfg n (canon t) rd.toNat = Spec.ev12 s.cfg n (canon s) rs1.toNat ^ 2) := by
  have hK := cellFld_fp12 hs.1
  have hread := readElem_base_ok hK hs h1
  rw [execF12csqr, h12]
  obtain ⟨t, ht, honly, hval⟩ := elemOp1?_next (op := fun a => .ok (cycSqr s.cfg a)) hs hK (cellLayout_fp12 _)
    (fun v b => ev12_eq_el12Of s.cfg v b n) rfl (cycSqr_ok hs.1 _) hd h1
  refine ⟨t, ht, honly, fun hcyc => ?_⟩
  rw [hval, cycSqr_eq_sqr hs.1 hf hread hcyc, (fp12Model_el12Of hs.1 hf).map_sqr]
  rfl

theorem execF12cexp_next {k : KIdx} (hk : kValid s k = true) :
    ∃ t, execF12cexp rd rs1 k s = .next t ∧ OnlyCells s t rd 12 ∧
      (Spec.Cyc s.cfg n (Spec.ev12 s.cfg n (canon s) rs1.toNat) ∨ kReg s k < 2 →
        Spec.ev12 s.cfg n (canon t) rd.toNat = Spec.ev12 s.cfg n (canon s) rs1.toNat ^ kReg s k) := by
  have hK := cellFld_fp12 hs.1
  rw [execF12cexp, h12]
  obtain ⟨t, ht, honly, hval⟩ := elemOpK_next hs hK (cellLayout_fp12 _) (fun v b => ev12_eq_el12Of s.cfg v b n)
    (fun _ e ha => cycExp_ok hs.1 ha e) hd h1 hk
  refine ⟨t, ht, honly, fun hcase => ?_⟩
  rw [hval, el12Of_cycExp hs.1 hf (readElem_base_ok hK hs h1) hcase]
  rfl

end

/-! ## The obligations -/

/-- Settles O38: `cubExt` over Fp2 and `quadExt` over Fp3 compute in the quotient rings. -/
theorem fp6Arithmetic : Obligations.Fp6Arithmetic := fun _ hs =>
  ⟨fun n hf => ringCommands_fp6 hs (fun run => onFp6_over2 run hf) (cellFld_fp6Over2 hs.1 n) (cellLayout_fp6Over2 _ n)
      (fun v b => ev6_eq_el6Of _ v b n) (fp6Over2Model hs.1.1.one_lt n),
    fun n hf => ringCommands_fp6 hs (fun run => onFp6_over3 run hf) (cellFld_fp6Over3 hs.1 n) (cellLayout_fp6Over3 _ n)
      (fun v b => ev6b_eq_el6bOf _ v b n) (fp6Over3Model hs.1.1.one_lt n)⟩

/-- Settles O39: `quadExt` over the 3-over-2 Fp6 computes in the quotient ring. -/
theorem fp12Arithmetic : Obligations.Fp12Arithmetic := fun _ n hs h12 hf =>
  ringCommands hs (cellFld_fp12 hs.1) (cellLayout_fp12 _) (fun v b => ev12_eq_el12Of _ v b n) h12
    (fp12Model_el12Of hs.1 hf) (fun _ _ _ => rfl) (fun _ _ _ => rfl) (fun _ _ _ => rfl) (fun _ _ => rfl) fun _ _ => rfl

/-- Settles O41: each level is a field over the level below, so the norm of a nonzero element is invertible there. -/
theorem upperTowerInverses : Obligations.UpperTowerInverses := fun _ hs =>
  ⟨fun n hf => inverseCommand_fp6 hs (fun run => onFp6_over2 run hf) (cellFld_fp6Over2 hs.1 n)
      (cellLayout_fp6Over2 _ n) (fun v b => ev6_eq_el6Of _ v b n) (towerFld_fp6Over2 hs.1 hf),
    fun n hf => inverseCommand_fp6 hs (fun run => onFp6_over3 run hf) (cellFld_fp6Over3 hs.1 n)
      (cellLayout_fp6Over3 _ n) (fun v b => ev6b_eq_el6bOf _ v b n) (towerFld_fp6Over3 hs.1 hf),
    fun n hf h12 => inverseCommand hs (cellFld_fp12 hs.1) (cellLayout_fp12 _) (fun v b => ev12_eq_el12Of _ v b n) h12
      (towerFld_fp12 hs.1 hf h12) fun _ _ => rfl⟩

/-- Settles O43: the tables of each level hold the powers `p^k` of its root, which depend on `k` modulo the degree
over Fp (the reading of conflict C5). -/
theorem upperTowerFrobenius : Obligations.UpperTowerFrobenius := fun _ hs =>
  ⟨fun n hf => frobeniusCommand_fp6 hs (fun run => onFp6_over2 run hf) (cellFld_fp6Over2 hs.1 n)
      (cellLayout_fp6Over2 _ n) (fun v b => ev6_eq_el6Of _ v b n) (towerFld_fp6Over2 hs.1 hf),
    fun n hf => frobeniusCommand_fp6 hs (fun run => onFp6_over3 run hf) (cellFld_fp6Over3 hs.1 n)
      (cellLayout_fp6Over3 _ n) (fun v b => ev6b_eq_el6bOf _ v b n) (towerFld_fp6Over3 hs.1 hf),
    fun n hf h12 => frobeniusCommand hs (cellFld_fp12 hs.1) (cellLayout_fp12 _) (fun v b => ev12_eq_el12Of _ v b n) h12
      (towerFld_fp12 hs.1 hf h12) fun _ _ _ => rfl⟩

/-- Settles O45: conjugation is cell by cell, and under CYC the accumulators of the loop stay cyclotomic, so that it is
square-and-multiply. -/
theorem cyclotomicCommands : Obligations.CyclotomicCommands := fun _ _ _ _ _ hs h12 hf hd h1 =>
  ⟨execF12uinv_next hs h12 hd h1, execF12csqr_next hs h12 hd h1 hf, fun hk => execF12cexp_next hs h12 hd h1 hf hk⟩

end Sys2Proof.Machine

/-! PROOFS. The groups (44_curve_group.md): the curves of a configuration, points in cells, and what the commands on
points write and test. -/

namespace Sys2Proof.Machine

/-! ## What the check of the configuration says of the curves (R9) -/

section
variable {c : Config} (h : c.WF)
include h

theorem curve_facts : c.curveA < c.p ∧ c.curveB < c.p ∧ ok2 c c.twist ∧
    (c.hasG2 = true → c.hasFp2 = true ∧ c.twist ≠ (fp2 c).zero) := by
  have hg : groupsOk c = true := by
    have hw := h.2
    simp only [Config.wfCheck, Bool.and_eq_true] at hw
    obtain ⟨-, -, hgroups, -⟩ := hw
    exact hgroups
  simp only [groupsOk, Bool.and_eq_true, Bool.or_eq_true, Bool.not_eq_true', inFp2, inFp, decide_eq_true_eq,
    beq_iff_eq, bne_iff_ne] at hg
  obtain ⟨⟨⟨⟨⟨⟨⟨⟨⟨ha, hb⟩, _⟩, _⟩, _⟩, _⟩, htw⟩, _⟩, _⟩, hg2⟩ := hg
  refine ⟨ha, hb, htw, fun hf => ?_⟩
  obtain ⟨⟨⟨hfp2, _⟩, hne⟩, _⟩ := hg2.resolve_left (by simp [hf])
  exact ⟨hfp2, hne⟩

theorem towerFld_fp2_of_hasG2 (hg : c.hasG2 = true) :
    TowerFld c.p (fp2 c) (Spec.A2 c) (fun a => Spec.el2 c a.c0 a.c1) (ok2 c) := by
  obtain ⟨-, -, -, hg2⟩ := curve_facts h
  exact towerFld_fp2 h (hg2 hg).1

theorem elF2_twist_ne_zero (hg : c.hasG2 = true) : Spec.elF2 c c.twist ≠ 0 := by
  obtain ⟨-, -, hok, hne⟩ := curve_facts h
  exact fun e => (hne hg).2 (((fp2Model h.1.one_lt).eq_zero_iff hok).2 e)

/-- `TWIST_B = CURVE_B * TWIST^-1` (R11). -/
theorem elF2_twist_mul_twistB (hg : c.hasG2 = true) :
    Spec.elF2 c c.twist * Spec.elF2 c (twistB c) = (c.curveB : Spec.A2 c) := by
  obtain ⟨-, hb, -⟩ := curve_facts h
  have hinv : Spec.elF2 c c.twist * Spec.elF2 c ((fp2 c).inv c.twist) = 1 :=
    (towerFld_fp2_of_hasG2 h hg).map_inv _ (elF2_twist_ne_zero h hg)
  have hmul : Spec.elF2 c (twistB c) = Spec.elF2 c (embed2 c c.curveB) * Spec.elF2 c ((fp2 c).inv c.twist) :=
    (fp2Model h.1.one_lt).map_mul _ _
  have hembed : Spec.elF2 c (embed2 c c.curveB) = (c.curveB : Spec.A2 c) := by
    simp [Spec.elF2, Spec.el2, embed2, Nat.mod_eq_of_lt hb]
  rw [hmul, hembed]
  linear_combination (c.curveB : Spec.A2 c) * hinv

omit h in
/-- The coefficient `a` of the twist (R269). -/
theorem elF2_g2_a (hp : 1 < c.p) : Spec.elF2 c (g2 c).a = 0 := (fp2Model hp).map_zero

/-- The equation of the twist (R268) times `TWIST`, which is not zero. -/
theorem twist_equation_iff (hg : c.hasG2 = true) (P : Pt (Spec.A2 c)) :
    P.y ^ 2 = P.x ^ 3 + Spec.elF2 c (g2 c).a * P.x * P.z ^ 4 + Spec.elF2 c (g2 c).b * P.z ^ 6 ↔
      Spec.elF2 c c.twist * P.y ^ 2 = Spec.elF2 c c.twist * P.x ^ 3 + (c.curveB : Spec.A2 c) * P.z ^ 6 := by
  let := (towerFld_fp2_of_hasG2 h hg).field.isField.toField
  rw [elF2_g2_a h.1.one_lt, zero_mul, zero_mul, add_zero, ← mul_right_inj' (elF2_twist_ne_zero h hg), mul_add,
    ← mul_assoc, ← elF2_twist_mul_twistB h hg]
  rfl

end

/-! ## Points in cells (R26)

A Jacobian point stands in its cells as an element of a cubic extension does, and an affine point as an element of a
quadratic one, so what is known of such elements is known of points. -/

section
variable {α : Type} {K : Fld α} {ok : α → Prop} {n : Nat} {s : State} {rd : CellIdx} {o : Out}
  (hs : Sound s) (hK : CellFld s.cfg.p K ok) (hL : CellLayout K n)
include hs hK hL

theorem writePt_next {P : Pt α} (hd : Dest rd (3 * n)) (hP : okPt ok P)
    (ho : o = .next (complete (writePt K s rd.toNat P))) :
    ∃ t, o = .next t ∧ OnlyCells s t rd (3 * n) ∧ readPt K t rd.toNat = P := by
  obtain ⟨t, ht, honly, hget⟩ := writeElem_next (a := (⟨P.x, P.y, P.z⟩ : Cub α)) hs (cellFld_cubExt hK K.zero)
    (hL.cubExt s.cfg.p K.zero) hd hP ho
  obtain ⟨hx, hy, hz⟩ := Cub.mk.inj hget
  exact ⟨t, ht, honly, congr (congrArg₂ Pt.mk hx hy) hz⟩

theorem writeAff_next {P : Aff α} (hd : Dest rd (2 * n)) (hx : ok P.x) (hy : ok P.y)
    (ho : o = .next (complete (writeAff K s rd.toNat P))) :
    ∃ t, o = .next t ∧ OnlyCells s t rd (2 * n) ∧ readAff K t rd.toNat = P := by
  obtain ⟨t, ht, honly, hget⟩ := writeElem_next (a := (⟨P.x, P.y⟩ : Quad α)) hs (cellFld_quadExt hK K.zero)
    (hL.quadExt s.cfg.p K.zero) hd ⟨hx, hy⟩ ho
  obtain ⟨hx, hy⟩ := Quad.mk.inj hget
  exact ⟨t, ht, honly, congrArg₂ Aff.mk hx hy⟩

end

theorem rawCell_eq_zero_iff {s : State} {b : CellIdx} {n i : Nat} (hs : Sound s) (h : Source s b n) (hi : i < n) :
    rawCell s (b.toNat + i) = 0 ↔ canon s (b.toNat + i) = 0 := by
  refine ⟨fun e => ?_, fun e => ?_⟩
  · rw [canon, e, val_zero]
  · have hinj := congrArg (rep s.cfg) (e.trans (val_zero s.cfg).symm)
    rwa [canon, rep_val hs.1 (rawCell_lt hs h hi), rep_val hs.1 hs.1.1.pos] at hinj

/-! ## A curve and its ring (R269) -/

/-- Conversion to affine (R266). -/
theorem mapAff_ptToAffine {α A : Type} [CommRing A] {K : Fld α} {φ : α → A} {ok : α → Prop} (h : FldModel K A φ ok)
    {P : Pt α} (hzi : φ P.z * φ (K.inv P.z) = 1) :
    (mapAff φ (ptToAffine K P)).x * (mapPt φ P).z ^ 2 = (mapPt φ P).x ∧
      (mapAff φ (ptToAffine K P)).y * (mapPt φ P).z ^ 3 = (mapPt φ P).y := by
  have hpow (k : Nat) : φ P.z ^ k * φ (K.inv P.z) ^ k = 1 := by rw [← mul_pow, hzi, one_pow]
  simp only [mapAff, mapPt, ptToAffine, h.map_mul, h.map_sqr]
  exact ⟨by linear_combination φ P.x * hpow 2, by linear_combination φ P.y * hpow 3⟩

/-- The curve `E` is present, its field computes in the ring `A`, and `ev` reads an element of `A` from `n` cells. -/
structure CurveModel {α : Type} (c : Config) (E : Curve α) (n : Nat) (A : Type) [CommRing A] (φ : α → A)
    (ok : α → Prop) (ev : (Nat → Nat) → Nat → A) : Prop where
  feature : E.feature = true
  cells : CellFld c.p E.K ok
  layout : CellLayout E.K n
  model : FldModel E.K A φ ok
  ev_eq : ∀ v b, ev v b = φ (E.K.get v b)
  a_ok : ok E.a

theorem curveModel_g1 {c : Config} (h : c.WF) :
    CurveModel c (g1 c) 1 (Spec.A1 c) (fun x => (x : Spec.A1 c)) (· < c.p) (Spec.ev1 c) where
  feature := rfl
  cells := cellFld_fp h
  layout := cellLayout_fp c
  model := fpModel h.1.one_lt
  ev_eq _ _ := rfl
  a_ok := (curve_facts h).1

theorem curveModel_g2 {c : Config} (h : c.WF) (hg : c.hasG2 = true) :
    CurveModel c (g2 c) 2 (Spec.A2 c) (Spec.elF2 c) (ok2 c) (Spec.ev2 c) where
  feature := hg
  cells := cellFld_fp2 h
  layout := cellLayout_fp2 c
  model := fp2Model h.1.one_lt
  ev_eq _ _ := rfl
  a_ok := (cellFld_fp2 h).zero_ok

/-! ## The commands on points (R270 to R289)

Each shape of command, once its operands pass, in the terms of the ring. -/

section
variable {α A : Type} [CommRing A] {E : Curve α} {n : Nat} {φ : α → A} {ok : α → Prop}
  {ev : (Nat → Nat) → Nat → A} {s : State} (h : CurveModel s.cfg E n A φ ok ev)
include h

theorem CurveModel.evPt_eq (t : State) (b : Nat) : Spec.evPt n ev (canon t) b = mapPt φ (readPt E.K t b) := by
  simp only [Spec.evPt, h.ev_eq, mapPt, readPt, readElem, h.layout.arity]

theorem CurveModel.evAff_eq (t : State) (b : Nat) : Spec.evAff n ev (canon t) b = mapAff φ (readAff E.K t b) := by
  simp only [Spec.evAff, h.ev_eq, mapAff, readAff, readElem, h.layout.arity]

theorem CurveModel.ptSpan_eq (b : CellIdx) : ptSpan E.K b = (b.toNat, 3 * n) := by
  rw [ptSpan, h.layout.arity]

theorem CurveModel.affSpan_eq (b : CellIdx) : affSpan E.K b = (b.toNat, 2 * n) := by
  rw [affSpan, h.layout.arity]

section
variable (hs : Sound s) {rd rs1 rs2 : CellIdx} (hd : Dest rd (3 * n))
include hs

theorem CurveModel.readPt_ok (h1 : Source s rs1 (3 * n)) : okPt ok (readPt E.K s rs1.toNat) :=
  Machine.readPt_ok h.cells hs (h.layout.arity.symm ▸ h1)

theorem CurveModel.readAff_ok (h1 : Source s rs1 (2 * n)) :
    ok (readAff E.K s rs1.toNat).x ∧ ok (readAff E.K s rs1.toNat).y :=
  Machine.readAff_ok h.cells hs (h.layout.arity.symm ▸ h1)

include hd

theorem CurveModel.writePt_next {P : Pt α} {o : Out} (hP : okPt ok P)
    (ho : o = .next (complete (writePt E.K s rd.toNat P))) :
    ∃ t, o = .next t ∧ OnlyCells s t rd (3 * n) ∧ Spec.evPt n ev (canon t) rd.toNat = mapPt φ P := by
  obtain ⟨t, ht, honly, hread⟩ := Machine.writePt_next hs h.cells h.layout hd hP ho
  exact ⟨t, ht, honly, by rw [h.evPt_eq, hread]⟩

theorem CurveModel.ptConst_next {P : Pt α} (hP : okPt ok P) :
    ∃ t, ptConst E P rd s = .next t ∧ OnlyCells s t rd (3 * n) ∧ readPt E.K t rd.toNat = P := by
  refine Machine.writePt_next hs h.cells h.layout hd hP ?_
  rw [ptConst, h.feature, h.ptSpan_eq]
  exact command_ok (checkNeeds_dst hd) rfl

variable (h1 : Source s rs1 (3 * n))
include h1

theorem CurveModel.ptOp1_next {op : Pt α → Pt α} (hop : okPt ok (op (readPt E.K s rs1.toNat))) :
    ∃ t, ptOp1 E op rd rs1 s = .next t ∧ OnlyCells s t rd (3 * n) ∧
      Spec.evPt n ev (canon t) rd.toNat = mapPt φ (op (readPt E.K s rs1.toNat)) := by
  refine h.writePt_next hs hd hop ?_
  rw [ptOp1, h.feature, h.ptSpan_eq, h.ptSpan_eq]
  exact command_ok (checkNeeds_dst_src hd h1) rfl

theorem CurveModel.ptOp2_next {op : Pt α → Pt α → Pt α} (h2 : Source s rs2 (3 * n))
    (hop : okPt ok (op (readPt E.K s rs1.toNat) (readPt E.K s rs2.toNat))) :
    ∃ t, ptOp2 E op rd rs1 rs2 s = .next t ∧ OnlyCells s t rd (3 * n) ∧
      Spec.evPt n ev (canon t) rd.toNat = mapPt φ (op (readPt E.K s rs1.toNat) (readPt E.K s rs2.toNat)) := by
  refine h.writePt_next hs hd hop ?_
  rw [ptOp2, h.feature, h.ptSpan_eq, h.ptSpan_eq, h.ptSpan_eq]
  exact command_ok (checkNeeds_dst_src2 hd h1 h2) rfl

theorem CurveModel.ptOpMixed_next {op : Pt α → Aff α → Pt α} (h2 : Source s rs2 (2 * n))
    (hop : okPt ok (op (readPt E.K s rs1.toNat) (readAff E.K s rs2.toNat))) :
    ∃ t, ptOpMixed E op rd rs1 rs2 s = .next t ∧ OnlyCells s t rd (3 * n) ∧
      Spec.evPt n ev (canon t) rd.toNat = mapPt φ (op (readPt E.K s rs1.toNat) (readAff E.K s rs2.toNat)) := by
  refine h.writePt_next hs hd hop ?_
  rw [ptOpMixed, h.feature, h.ptSpan_eq, h.ptSpan_eq, h.affSpan_eq]
  exact command_ok (checkNeeds_dst_src2 hd h1 h2) rfl

theorem CurveModel.ptOpK_next {op : Pt α → Nat → Pt α} {k : KIdx} (hk : kValid s k = true)
    (hop : okPt ok (op (readPt E.K s rs1.toNat) (kReg s k))) :
    ∃ t, ptOpK E op rd rs1 k s = .next t ∧ OnlyCells s t rd (3 * n) ∧
      Spec.evPt n ev (canon t) rd.toNat = mapPt φ (op (readPt E.K s rs1.toNat) (kReg s k)) := by
  refine h.writePt_next hs hd hop ?_
  rw [ptOpK, h.feature, h.ptSpan_eq, h.ptSpan_eq]
  exact command_ok (checkNeeds_dst_src_reg hd h1 hk) rfl

end

variable [DecidableEq α] (hs : Sound s)
include hs

/-- Doubling, addition, mixed addition and negation in either group (R270 to R273, R280 to R283). -/
theorem CurveModel.pointCommands {pdbl pneg : CellIdx → CellIdx → Instr}
    {padd pmadd : CellIdx → CellIdx → CellIdx → Instr}
    (hdbl : ∀ rd rs1, exec (pdbl rd rs1) s = ptOp1 E (ptDbl E.K E.a) rd rs1 s)
    (hadd : ∀ rd rs1 rs2, exec (padd rd rs1 rs2) s = ptOp2 E (ptAdd E.K E.a) rd rs1 rs2 s)
    (hmadd : ∀ rd rs1 rs2, exec (pmadd rd rs1 rs2) s = ptOpMixed E (ptMadd E.K E.a) rd rs1 rs2 s)
    (hneg : ∀ rd rs1, exec (pneg rd rs1) s = ptOp1 E (ptNeg E.K) rd rs1 s) :
    Spec.PointCommands s n ev (φ E.a) pdbl padd pmadd pneg := by
  intro rd rs1 rs2 hd h1
  have hP := h.readPt_ok hs h1
  rw [hdbl, hadd, hmadd, hneg]
  refine ⟨?_, fun h2 => ?_, fun h2 => ?_, ?_⟩
  · rw [h.evPt_eq s, ← mapPt_ptDbl h.model h.a_ok hP]
    exact h.ptOp1_next hs hd h1 (h.cells.ptDbl_ok E.a hP)
  · have hQ := h.readPt_ok hs h2
    rw [h.evPt_eq s, h.evPt_eq s, ← mapPt_ptAdd h.model h.a_ok hP hQ]
    exact h.ptOp2_next hs hd h1 h2 (h.cells.ptAdd_ok E.a hP hQ)
  · obtain ⟨hx, hy⟩ := h.readAff_ok hs h2
    rw [h.evPt_eq s, h.evAff_eq s, ← mapPt_ptMadd h.model h.a_ok hP]
    exact h.ptOpMixed_next hs hd h1 h2 (h.cells.ptMadd_ok E.a hP hx hy)
  · rw [h.evPt_eq s, ← mapPt_ptNeg h.model]
    exact h.ptOp1_next hs hd h1 (h.cells.ptNeg_ok hP)

omit hs in
theorem CurveModel.ptOpAffine_identity {rd rs1 : CellIdx} (hd : Dest rd (2 * n)) (h1 : Source s rs1 (3 * n))
    (hid : isId E.K (readPt E.K s rs1.toNat) = true) : ptOpAffine E rd rs1 s = .next (faulted s 9) := by
  rw [ptOpAffine, h.feature, h.ptSpan_eq, h.affSpan_eq]
  exact command_error (c := .identity) (checkNeeds_dst_src hd h1) (if_pos hid)

theorem CurveModel.ptOpAffine_next {rd rs1 : CellIdx} (hd : Dest rd (2 * n)) (h1 : Source s rs1 (3 * n))
    (hid : ¬isId E.K (readPt E.K s rs1.toNat) = true) :
    ∃ t, ptOpAffine E rd rs1 s = .next t ∧ OnlyCells s t rd (2 * n) ∧
      Spec.evAff n ev (canon t) rd.toNat = mapAff φ (ptToAffine E.K (readPt E.K s rs1.toNat)) := by
  have ho : ptOpAffine E rd rs1 s =
      .next (complete (writeAff E.K s rd.toNat (ptToAffine E.K (readPt E.K s rs1.toNat)))) := by
    rw [ptOpAffine, h.feature, h.ptSpan_eq, h.affSpan_eq]
    exact command_ok (checkNeeds_dst_src hd h1) (if_neg hid)
  obtain ⟨t, ht, honly, hread⟩ :=
    writeAff_next hs h.cells h.layout hd (h.model.mul_ok _ _) (h.model.mul_ok _ _) ho
  exact ⟨t, ht, honly, by rw [h.evAff_eq, hread]⟩

omit hs in
/-- The identity is the triple whose last `n` cells are 0 (R261). -/
theorem CurveModel.isId_iff_cells (b : Nat) :
    isId E.K (readPt E.K s b) = true ↔ ∀ i < n, canon s (b + 2 * n + i) = 0 := by
  rw [isId, decide_eq_true_iff]
  simpa only [readPt, readElem, h.layout.arity] using h.layout.get_eq_zero_iff (canon s) (b + 2 * n)

/-- Conversion to affine in either group: `Z` times its inverse is one (R266, R274, R284). -/
theorem CurveModel.affineCommand {paff : CellIdx → CellIdx → Instr}
    (hinv : ∀ a, φ a ≠ 0 → φ a * φ (E.K.inv a) = 1)
    (haff : ∀ rd rs1, exec (paff rd rs1) s = ptOpAffine E rd rs1 s) : Spec.AffineCommand s n ev paff := by
  intro rd rs1 hd h1
  have hP := h.readPt_ok hs h1
  rw [haff, ← h.isId_iff_cells]
  refine ⟨h.ptOpAffine_identity hd h1, fun ⟨i, hi, hne⟩ => ?_⟩
  have hid : ¬isId E.K (readPt E.K s rs1.toNat) = true := fun e => hne ((h.isId_iff_cells _).1 e i hi)
  obtain ⟨t, ht, honly, haffine⟩ := h.ptOpAffine_next hs hd h1 hid
  refine ⟨t, ht, honly, ?_⟩
  rw [haffine, h.evPt_eq]
  exact mapAff_ptToAffine h.model (hinv _ fun e => hid ((isId_iff h.model hP).2 e))

/-- The tests in either group (R275 to R277, R285 to R287). -/
theorem CurveModel.pointTests {onCurve : Pt A → Prop} {isid iswf : CellIdx → Instr} {eq : CellIdx → CellIdx → Instr}
    {test : CellIdx → State → Bool}
    (hisid : ∀ rs1, exec (isid rs1) s = testOp1 E.feature (ptSpan E.K rs1) (test rs1) s)
    (htest : ∀ rs1, test rs1 s = true ↔ ∀ i < n, rawCell s (rs1.toNat + (2 * n + i)) = 0)
    (heq : ∀ rs1 rs2, exec (eq rs1 rs2) s = testOp2 E.feature (ptSpan E.K rs1) (ptSpan E.K rs2)
      (fun s => ptEq E.K (readPt E.K s rs1.toNat) (readPt E.K s rs2.toNat)) s)
    (hiswf : ∀ rs1, exec (iswf rs1) s = testOp1 E.feature (ptSpan E.K rs1)
      (fun s => ptIsWF E.K E.a E.b (readPt E.K s rs1.toNat)) s)
    (hcurve : ∀ P : Pt A, P.y ^ 2 = P.x ^ 3 + φ E.a * P.x * P.z ^ 4 + φ E.b * P.z ^ 6 ↔ onCurve P) :
    Spec.PointTests s n ev onCurve isid eq iswf := by
  intro rs1 rs2 h1
  have hP := h.readPt_ok hs h1
  rw [hisid, heq, hiswf, h.feature, h.ptSpan_eq, h.ptSpan_eq, h.evPt_eq s, h.evPt_eq s]
  refine ⟨testOp1_next h1 ?_, fun h2 => testOp2_next h1 h2 (ptEq_iff h.model hP (h.readPt_ok hs h2)),
    testOp1_next h1 ?_⟩
  · rw [← isId_iff h.model hP, h.isId_iff_cells, htest]
    refine forall₂_congr fun i hi => ?_
    rw [Nat.add_assoc]
    exact rawCell_eq_zero_iff hs h1 (by omega)
  · rw [ptIsWF_iff h.model E.a E.b hP, hcurve]

end

/-! The four commands of each group, by the curve they are defined on. -/

section
variable {A : Type} [CommRing A] {n : Nat} {ev : (Nat → Nat) → Nat → A} {s : State} (hs : Sound s)
include hs

theorem pointCommands_g1 {φ : Fp → A} {ok : Fp → Prop} (h : CurveModel s.cfg (g1 s.cfg) n A φ ok ev) :
    Spec.PointCommands s n ev (φ (g1 s.cfg).a) .pdbl .padd .pmadd .pneg :=
  h.pointCommands hs (fun _ _ => rfl) (fun _ _ _ => rfl) (fun _ _ _ => rfl) fun _ _ => rfl

theorem pointCommands_g2 {φ : F2 → A} {ok : F2 → Prop} (h : CurveModel s.cfg (g2 s.cfg) n A φ ok ev) :
    Spec.PointCommands s n ev (φ (g2 s.cfg).a) .qdbl .qadd .qmadd .qneg :=
  h.pointCommands hs (fun _ _ => rfl) (fun _ _ _ => rfl) (fun _ _ _ => rfl) fun _ _ => rfl

end

/-! The cells of a point, one by one. -/

theorem readPt_fp_cells {c : Config} {t : State} {b : Nat} {P : Pt Fp} (h : readPt (fp c) t b = P) :
    [canon t b, canon t (b + 1), canon t (b + 2)] = [P.x, P.y, P.z] := h ▸ rfl

theorem readPt_fp2_cells {c : Config} {t : State} {b : Nat} {P : Pt F2} (h : readPt (fp2 c) t b = P) :
    [canon t b, canon t (b + 1), canon t (b + 2), canon t (b + 3), canon t (b + 4), canon t (b + 5)] =
      [P.x.c0, P.x.c1, P.y.c0, P.y.c1, P.z.c0, P.z.c1] := h ▸ rfl

/-! ## The obligations -/

/-- Settles O47: the value functions of G1 are the formulas of the ring `Fp`. -/
theorem g1Formulas : Obligations.G1Formulas := fun _ hs => pointCommands_g1 hs (curveModel_g1 hs.1)

/-- Settles O48: the value functions of G2 are the formulas of the ring `Fp2`, where the coefficient `a` is zero. -/
theorem g2Formulas : Obligations.G2Formulas := fun _ hs hg =>
  elF2_g2_a hs.1.1.one_lt ▸ pointCommands_g2 hs (curveModel_g2 hs.1 hg)

/-- Settles O49: `Fp` and `Fp2` are fields, so a nonzero `Z` has the inverse that the conversion multiplies by. -/
theorem toAffine : Obligations.ToAffine := fun _ hs =>
  ⟨(curveModel_g1 hs.1).affineCommand hs (towerFld_fp hs.1).map_inv fun _ _ => rfl,
    fun hg => (curveModel_g2 hs.1 hg).affineCommand hs (towerFld_fp2_of_hasG2 hs.1 hg).map_inv fun _ _ => rfl⟩

/-- Settles O50: the tests of the value functions are those of the ring; PISID and QISID look at the
raw cells of `Z`, which are zero where the values are. -/
theorem pointTests : Obligations.PointTests := by
  refine fun s hs => ⟨(curveModel_g1 hs.1).pointTests (test := fun rs1 s => rawCell s (rs1.toNat + 2) == 0) hs
      (fun _ => rfl) (fun rs1 => ?_) (fun _ _ => rfl) (fun _ => rfl) fun _ => Iff.rfl,
    fun hg => (curveModel_g2 hs.1 hg).pointTests
      (test := fun rs1 s => rawCell s (rs1.toNat + 4) == 0 && rawCell s (rs1.toNat + 5) == 0) hs
      (fun _ => rfl) (fun rs1 => ?_) (fun _ _ => rfl) (fun _ => rfl) (twist_equation_iff hs.1 hg)⟩
  · simp
  · rw [forall_cells_add_iff 1 1]
    simp

/-- Settles O51: what a constant command writes is read back cell by cell. -/
theorem pointConstants : Obligations.PointConstants := by
  intro s rd hs
  obtain ⟨⟨hx1, hy1⟩, hx2, hy2⟩ := gen_ok hs.1
  have hone : 1 % s.cfg.p = 1 := Nat.mod_eq_of_lt hs.1.1.one_lt
  refine ⟨fun hd => ?_, fun hg hd => ?_⟩
  · have h := curveModel_g1 hs.1
    obtain ⟨t, ht, honly, hread⟩ := h.ptConst_next hs hd h.cells.ptZero_ok
    obtain ⟨u, hu, uonly, uread⟩ := h.ptConst_next hs hd (P := genPt (g1 s.cfg)) ⟨hx1, hy1, h.cells.one_ok⟩
    exact ⟨⟨t, ht, honly, (readPt_fp_cells hread).trans (congrArg (fun x => [0, x, 0]) hone)⟩,
      u, hu, uonly, (readPt_fp_cells uread).trans (congrArg (fun x => [s.cfg.gen1.x, s.cfg.gen1.y, x]) hone)⟩
  · have h := curveModel_g2 hs.1 hg
    obtain ⟨t, ht, honly, hread⟩ := h.ptConst_next hs hd h.cells.ptZero_ok
    obtain ⟨u, hu, uonly, uread⟩ := h.ptConst_next hs hd (P := genPt (g2 s.cfg)) ⟨hx2, hy2, h.cells.one_ok⟩
    exact ⟨⟨t, ht, honly, (readPt_fp2_cells hread).trans (congrArg (fun x => [0, 0, x, 0, 0, 0]) hone)⟩,
      u, hu, uonly, (readPt_fp2_cells uread).trans (congrArg (fun x => [_, _, _, _, x, 0]) hone)⟩

end Sys2Proof.Machine

/-! PROOFS. The group of a curve (R260, R290, R309): on triples that represent points, the formulas are the operations
of Mathlib's group, and the scalar multipliers are its multiples. -/

namespace Sys2Proof.Machine

/-! ## The formulas on points of a curve (R260 to R265, R290) -/

section
open WeierstrassCurve.Affine
variable {F : Type} [Field F] {a b : F}

theorem curve_negY (x y : F) : (Spec.curve a b).negY x y = -y := by
  simp [negY, Spec.curve]

theorem ne_curve_negY {x y : F} (h : 2 * y ≠ 0) : y ≠ (Spec.curve a b).negY x y := by
  rw [curve_negY]
  exact fun e => h (by linear_combination e)

theorem represents_zero_iff (P : Pt F) : Spec.Represents P (0 : (Spec.curve a b).Point) ↔ P.z = 0 := Iff.rfl

theorem represents_zeroPt : Spec.Represents Spec.zeroPt (0 : (Spec.curve a b).Point) :=
  (represents_zero_iff _).2 rfl

/-- The triples of a finite point, by their `Z`. -/
theorem represents_some_iff {P : Pt F} {x y : F} {hns : (Spec.curve a b).Nonsingular x y} :
    Spec.Represents P (.some x y hns) ↔ ∃ z, z ≠ 0 ∧ P = ⟨x * z ^ 2, y * z ^ 3, z⟩ := by
  constructor
  · intro ⟨hz, hx, hy⟩
    exact ⟨P.z, hz, by rw [hx, hy]⟩
  · rintro ⟨z, hz, rfl⟩
    exact ⟨hz, rfl, rfl⟩

/-- The third point of a line of slope `ℓ`, negated, in Jacobian coordinates: what Dbl and Add have in common. -/
theorem represents_of_line {x₁ x₂ y₁ ℓ : F} {P : Pt F} (hz : P.z ≠ 0)
    (hx : P.x = (ℓ * P.z) ^ 2 - (x₁ + x₂) * P.z ^ 2)
    (hy : P.y = ℓ * P.z * (x₁ * P.z ^ 2 - P.x) - y₁ * P.z ^ 3)
    (hns : (Spec.curve a b).Nonsingular ((Spec.curve a b).addX x₁ x₂ ℓ) ((Spec.curve a b).addY x₁ x₂ y₁ ℓ)) :
    Spec.Represents P (.some _ _ hns) := by
  have hX : (Spec.curve a b).addX x₁ x₂ ℓ = ℓ ^ 2 - x₁ - x₂ := by simp [addX, Spec.curve]
  have hY : (Spec.curve a b).addY x₁ x₂ y₁ ℓ = -(ℓ * (ℓ ^ 2 - x₁ - x₂ - x₁) + y₁) := by
    rw [addY, curve_negY, negAddY, hX]
  refine ⟨hz, ?_, ?_⟩
  · rw [hX, hx]
    ring
  · rw [hY, hy, hx]
    ring

theorem represents_neg {P : Pt F} {X : (Spec.curve a b).Point} (h : Spec.Represents P X) :
    Spec.Represents (Spec.neg P) (-X) := by
  cases X with
  | zero => exact h
  | some x y hns =>
    obtain ⟨hz, hx, hy⟩ := h
    exact ⟨hz, hx, by rw [curve_negY, neg_mul]; exact congrArg _ hy⟩

variable [DecidableEq F]

theorem slope_self_mul {x y : F} (h : 2 * y ≠ 0) : (Spec.curve a b).slope x x y y * (2 * y) = 3 * x ^ 2 + a := by
  rw [slope_of_Y_ne rfl (ne_curve_negY h), curve_negY, sub_neg_eq_add, ← two_mul, div_mul_cancel₀ _ h]
  simp [Spec.curve]

theorem slope_mul_sub {x₁ x₂ y₁ y₂ : F} (h : x₁ ≠ x₂) :
    (Spec.curve a b).slope x₁ x₂ y₁ y₂ * (x₂ - x₁) = y₂ - y₁ := by
  rw [slope_of_X_ne h, ← neg_div_neg_eq, neg_sub, neg_sub, div_mul_cancel₀ _ (sub_ne_zero.2 h.symm)]

/-- Doubling (R262): `M` is the slope of the tangent times the new `Z`. -/
theorem represents_dbl (h2 : (2 : F) ≠ 0) {P : Pt F} {X : (Spec.curve a b).Point} (h : Spec.Represents P X) :
    Spec.Represents (Spec.dbl a P) (2 • X) := by
  cases X with
  | zero =>
    have hz : P.z = 0 := h
    rwa [Spec.dbl, if_pos hz, ← Point.zero_def, smul_zero]
  | some x y hns =>
    obtain ⟨z, hz, rfl⟩ := represents_some_iff.1 h
    rw [Spec.dbl, if_neg hz, two_nsmul]
    by_cases hy : y = 0
    · rw [Point.add_self_of_Y_eq (by rw [curve_negY, hy, neg_zero]), represents_zero_iff, hy]
      ring
    · have h2y : 2 * y ≠ 0 := mul_ne_zero h2 hy
      have hslope := slope_self_mul (a := a) (b := b) (x := x) h2y
      rw [Point.add_self_of_Y_ne (ne_curve_negY h2y)]
      have hM : 3 * (x * z ^ 2) ^ 2 + a * z ^ 4 =
          (Spec.curve a b).slope x x y y * (2 * (y * z ^ 3) * z) := by linear_combination -z ^ 4 * hslope
      rw [hM]
      refine represents_of_line (mul_ne_zero (mul_ne_zero h2 (mul_ne_zero hy (pow_ne_zero 3 hz))) hz) ?_ ?_ _ <;> ring

omit [DecidableEq F] in
/-- The comparisons of R263: coordinates scaled to a common denominator agree when the coordinates do. -/
theorem scaled_eq_iff {u v z₁ z₂ : F} (hz₁ : z₁ ≠ 0) (hz₂ : z₂ ≠ 0) (k : Nat) :
    u * z₁ ^ k * z₂ ^ k = v * z₂ ^ k * z₁ ^ k ↔ u = v := by
  rw [mul_right_comm v, mul_assoc, mul_assoc, ← mul_pow, mul_left_inj' (pow_ne_zero k (mul_ne_zero hz₁ hz₂))]

/-- Addition of finite points (R263): when the abscissas differ, `r` is the slope of the chord times the new `Z`. -/
theorem represents_add_some (h2 : (2 : F) ≠ 0) {P Q : Pt F} {x₁ y₁ x₂ y₂ : F}
    {hns₁ : (Spec.curve a b).Nonsingular x₁ y₁} {hns₂ : (Spec.curve a b).Nonsingular x₂ y₂}
    (hP : Spec.Represents P (.some x₁ y₁ hns₁)) (hQ : Spec.Represents Q (.some x₂ y₂ hns₂)) :
    Spec.Represents (Spec.add a P Q) (.some x₁ y₁ hns₁ + .some x₂ y₂ hns₂) := by
  have hdbl := represents_dbl h2 hP
  obtain ⟨z₁, hz₁, rfl⟩ := represents_some_iff.1 hP
  obtain ⟨z₂, hz₂, rfl⟩ := represents_some_iff.1 hQ
  have hU := scaled_eq_iff (u := x₁) (v := x₂) hz₁ hz₂ 2
  have hS := scaled_eq_iff (u := y₁) (v := y₂) hz₁ hz₂ 3
  rw [Spec.add, if_neg hz₁, if_neg hz₂]
  dsimp only
  by_cases hx : x₁ = x₂
  · rw [if_pos (hU.2 hx)]
    subst hx
    by_cases hy : y₁ = y₂
    · rw [if_pos (hS.2 hy)]
      subst hy
      rwa [← two_nsmul]
    · rw [if_neg (hy ∘ hS.1), Point.add_of_Y_eq rfl ((Y_eq_of_X_eq hns₁.1 hns₂.1 rfl).resolve_left hy)]
      exact represents_zeroPt
  · rw [if_neg (hx ∘ hU.1), Point.add_of_X_ne hx]
    have hslope := slope_mul_sub (a := a) (b := b) (y₁ := y₁) (y₂ := y₂) hx
    have hr : 2 * (y₂ * z₂ ^ 3 * z₁ ^ 3 - y₁ * z₁ ^ 3 * z₂ ^ 3) = (Spec.curve a b).slope x₁ x₂ y₁ y₂ *
        (2 * z₁ * z₂ * (x₂ * z₂ ^ 2 * z₁ ^ 2 - x₁ * z₁ ^ 2 * z₂ ^ 2)) := by
      linear_combination -2 * z₁ ^ 3 * z₂ ^ 3 * hslope
    rw [hr]
    have hH := sub_ne_zero.2 (Ne.symm (hx ∘ hU.1))
    refine represents_of_line (mul_ne_zero (mul_ne_zero (mul_ne_zero h2 hz₁) hz₂) hH) ?_ ?_ _ <;> ring

/-- Addition (R263). -/
theorem represents_add (h2 : (2 : F) ≠ 0) {P Q : Pt F} {X Y : (Spec.curve a b).Point} (hP : Spec.Represents P X)
    (hQ : Spec.Represents Q Y) : Spec.Represents (Spec.add a P Q) (X + Y) := by
  cases X with
  | zero =>
    have hz : P.z = 0 := hP
    rwa [Spec.add, if_pos hz, ← Point.zero_def, zero_add]
  | some x₁ y₁ hns₁ =>
    cases Y with
    | zero =>
      have hz : Q.z = 0 := hQ
      rwa [Spec.add, if_neg hP.1, if_pos hz, ← Point.zero_def, add_zero]
    | some x₂ y₂ hns₂ => exact represents_add_some h2 hP hQ

omit [DecidableEq F] in
/-- Mixed addition is addition of the triple with `Z = 1` (R264). -/
theorem madd_eq_add (a : F) (P : Pt F) (Q : Aff F) : Spec.madd a P Q = Spec.add a P ⟨Q.x, Q.y, 1⟩ := by
  rw [Spec.madd, Spec.add]
  dsimp only
  rw [one_pow, one_pow, mul_one, mul_one, mul_one, if_neg one_ne_zero]

end

/-! ## Scalar multiplication (R300, R301, R309)

The multipliers use Dbl and Add alone, so they are multiples in whatever group Dbl and Add compute. -/

/-- Under the relation `R` of triples to elements of `G`, Dbl and Add are the operations of `G`. -/
structure GroupModel {α G : Type} [DecidableEq α] [AddMonoid G] (K : Fld α) (a : α) (R : Pt α → G → Prop) : Prop where
  zero : R (ptZero K) 0
  dbl : ∀ P X, R P X → R (ptDbl K a P) (2 • X)
  add : ∀ P Q X Y, R P X → R Q Y → R (ptAdd K a P Q) (X + Y)

section
variable {α G : Type} [DecidableEq α] [AddMonoid G] {K : Fld α} {a : α} {R : Pt α → G → Prop}
  (h : GroupModel K a R) {P acc : Pt α} {X : G} {n : Nat}
include h

theorem GroupModel.rel_ptZero (X : G) : R (ptZero K) (0 • X) := (zero_nsmul X).symm ▸ h.zero

theorem GroupModel.rel_ptDbl (hacc : R acc (n • X)) : R (ptDbl K a acc) ((n * 2) • X) :=
  mul_nsmul X n 2 ▸ h.dbl _ _ hacc

theorem GroupModel.rel_dblTimes (w : Nat) (hacc : R acc (n • X)) : R (dblTimes K a w acc) ((n * 2 ^ w) • X) := by
  induction w generalizing acc n with
  | zero => rwa [pow_zero, mul_one]
  | succ w ih =>
    have hloop := ih (h.rel_ptDbl hacc)
    rwa [mul_assoc, ← pow_succ'] at hloop

variable (hP : R P X)
include hP

theorem GroupModel.rel_ptAdd_self (hacc : R acc (n • X)) : R (ptAdd K a acc P) ((n + 1) • X) :=
  succ_nsmul X n ▸ h.add _ _ _ _ hacc hP

/-- One bit: double, and add when it is set. -/
theorem GroupModel.rel_smulLoop (k i : Nat) (hacc : R acc (n • X)) :
    R (smulLoop K a P k i acc) ((n * 2 ^ i + k % 2 ^ i) • X) := by
  induction i generalizing acc n with
  | zero => rwa [pow_zero, mul_one, Nat.mod_one, add_zero]
  | succ i ih =>
    have hd := h.rel_ptDbl hacc
    have hbit : R (if k.testBit i then ptAdd K a (ptDbl K a acc) P else ptDbl K a acc)
        ((n * 2 + (k.testBit i).toNat) • X) := by
      cases k.testBit i
      · exact hd
      · exact h.rel_ptAdd_self hP hd
    have hsplit : n * 2 ^ (i + 1) + k % 2 ^ (i + 1) = (n * 2 + (k.testBit i).toNat) * 2 ^ i + k % 2 ^ i := by
      rw [pow_succ, Nat.mod_mul, Nat.toNat_testBit]
      ring
    rw [hsplit]
    exact ih hbit

/-- Double-and-add is the multiple (R300). -/
theorem GroupModel.rel_smul (k : Nat) : R (smul K a P k) (k • X) := by
  unfold smul
  split
  · next hk =>
    rw [hk]
    exact h.rel_ptZero X
  · next hk =>
    have hloop := h.rel_smulLoop hP k (bitlen k - 1) (n := 1) (by rwa [one_nsmul])
    rwa [one_mul, two_pow_add_mod hk] at hloop

theorem GroupModel.rel_windowEntries {i m : Nat} (hi : i < m) (hacc : R acc (n • X)) :
    R ((windowEntries K a P m acc).getD i (ptZero K)) ((n + 1 + i) • X) := by
  induction m generalizing acc n i with
  | zero => omega
  | succ m ih =>
    have hnext := h.rel_ptAdd_self hP hacc
    cases i with
    | zero => exact hnext
    | succ i =>
      have hrest := ih (i := i) (by omega) hnext
      rwa [add_right_comm _ 1 i, add_assoc] at hrest

/-- Entry `d` of the table is the multiple by `d` (R301). -/
theorem GroupModel.rel_windowTable {w d : Nat} (hd : d < 2 ^ w) :
    R ((windowTable K a P w).getD d (ptZero K)) (d • X) := by
  match d with
  | 0 => exact h.rel_ptZero X
  | 1 =>
    rw [one_nsmul]
    exact hP
  | d + 2 =>
    have hentry := h.rel_windowEntries hP (i := d) (m := 2 ^ w - 2) (n := 1) (by omega) (by rwa [one_nsmul])
    rwa [add_comm _ d] at hentry

/-- One digit: double `w` times, and add the entry of the digit. -/
theorem GroupModel.rel_smulwLoop (k w i : Nat) (hacc : R acc (n • X)) :
    R (smulwLoop K a (windowTable K a P w) k w i acc) ((n * 2 ^ (i * w) + k % 2 ^ (i * w)) • X) := by
  induction i generalizing acc n with
  | zero => rwa [zero_mul, pow_zero, mul_one, Nat.mod_one, add_zero]
  | succ i ih =>
    rw [smulwLoop, Nat.shiftRight_eq_div_pow]
    have hlt : k / 2 ^ (i * w) % 2 ^ w < 2 ^ w := Nat.mod_lt _ (Nat.two_pow_pos w)
    have hsplit : n * 2 ^ ((i + 1) * w) + k % 2 ^ ((i + 1) * w) =
        (n * 2 ^ w + k / 2 ^ (i * w) % 2 ^ w) * 2 ^ (i * w) + k % 2 ^ (i * w) := by
      rw [Nat.succ_mul, pow_add, Nat.mod_mul]
      ring
    rw [hsplit]
    apply ih
    have hd := h.rel_dblTimes w hacc
    generalize k / 2 ^ (i * w) % 2 ^ w = d at hlt
    split
    · rw [add_nsmul]
      exact h.add _ _ _ _ hd (h.rel_windowTable hP hlt)
    · next hzero => rwa [not_not.1 hzero, add_zero]

/-- The fixed window gives the multiple for every width that is not zero (R301). -/
theorem GroupModel.rel_smulw (k : Nat) {w : Nat} (hw : 0 < w) : R (smulw K a P k w) (k • X) := by
  unfold smulw
  split
  · next hk =>
    rw [hk]
    exact h.rel_ptZero X
  · have hdigits : bitlen k ≤ (bitlen k + w - 1) / w * w := by
      have hdiv := Nat.div_add_mod (bitlen k + w - 1) w
      have hrem := Nat.mod_lt (bitlen k + w - 1) hw
      rw [mul_comm]
      omega
    have hk : k < 2 ^ ((bitlen k + w - 1) / w * w) :=
      (lt_two_pow_bitlen k).trans_le (Nat.pow_le_pow_right Nat.two_pos hdigits)
    have hloop := h.rel_smulwLoop hP k w ((bitlen k + w - 1) / w) (h.rel_ptZero X)
    rwa [zero_mul, zero_add, Nat.mod_eq_of_lt hk] at hloop

end

/-! ## Any copy of the ring -/

section
variable {α A B : Type} [CommRing A] [CommRing B] {φ : α → A} {ok : α → Prop} (e : A ≃+* B)

theorem fldModel_of_ringEquiv {K : Fld α} (h : FldModel K A φ ok) : FldModel K B (fun x => e (φ x)) ok where
  zero_ok := h.zero_ok
  one_ok := h.one_ok
  add_ok := h.add_ok
  sub_ok := h.sub_ok
  mul_ok := h.mul_ok
  neg_ok := h.neg_ok
  map_zero := (congrArg e h.map_zero).trans (map_zero e)
  map_one := (congrArg e h.map_one).trans (map_one e)
  map_add _ _ := (congrArg e (h.map_add _ _)).trans (map_add e _ _)
  map_sub _ _ := (congrArg e (h.map_sub _ _)).trans (map_sub e _ _)
  map_mul _ _ := (congrArg e (h.map_mul _ _)).trans (map_mul e _ _)
  map_neg _ := (congrArg e (h.map_neg _)).trans (map_neg e _)
  inj _ _ ha hb heq := h.inj _ _ ha hb (e.injective heq)

theorem curveModel_of_ringEquiv {c : Config} {E : Curve α} {n : Nat} {ev : (Nat → Nat) → Nat → A}
    (h : CurveModel c E n A φ ok ev) : CurveModel c E n B (fun x => e (φ x)) ok (fun v b => e (ev v b)) where
  feature := h.feature
  cells := h.cells
  layout := h.layout
  model := fldModel_of_ringEquiv e h.model
  ev_eq v b := congrArg e (h.ev_eq v b)
  a_ok := h.a_ok

/-- Two is not zero where an odd number is. -/
theorem two_ne_zero_of_natCast_eq_zero [Nontrivial A] {p : Nat} (hodd : p % 2 = 1) (hp : (p : A) = 0) :
    (2 : A) ≠ 0 := by
  intro h2
  rw [← Nat.div_add_mod p 2, hodd, Nat.cast_add, Nat.cast_mul, Nat.cast_two, h2, zero_mul, zero_add,
    Nat.cast_one] at hp
  exact one_ne_zero hp

end

/-! ## The commands in the group of the curve -/

section
variable {α F : Type} [DecidableEq α] [Field F] [DecidableEq F] {φ : α → F} {ok : α → Prop}

/-- The triple is canonical, and its image represents the point. -/
def CanonRepresents (φ : α → F) (ok : α → Prop) {a b : F} (P : Pt α) (X : (Spec.curve a b).Point) : Prop :=
  okPt ok P ∧ Spec.Represents (mapPt φ P) X

theorem FldModel.groupModel {K : Fld α} {a : α} {b : F} (h : FldModel K F φ ok) (h2 : (2 : F) ≠ 0) (ha : ok a) :
    GroupModel K a (CanonRepresents (a := φ a) (b := b) φ ok) where
  zero := ⟨okPt_ptZero h, by rw [mapPt_ptZero h]; exact represents_zeroPt⟩
  dbl _ _ := fun ⟨hP, hX⟩ => ⟨okPt_ptDbl h a hP, by rw [mapPt_ptDbl h ha hP]; exact represents_dbl h2 hX⟩
  add _ _ _ _ := fun ⟨hP, hX⟩ ⟨hQ, hY⟩ =>
    ⟨okPt_ptAdd h a hP hQ, by rw [mapPt_ptAdd h ha hP hQ]; exact represents_add h2 hX hY⟩

variable {E : Curve α} {n : Nat} {ev : (Nat → Nat) → Nat → F} {s : State} {b : F}
  (h : CurveModel s.cfg E n F φ ok ev) (hs : Sound s)
include h hs

omit [DecidableEq α] in
/-- A scalar multiplier whose value rule is the multiple in the group. -/
theorem CurveModel.ptOpK_represents {rd rs1 : CellIdx} {k : KIdx} {op : Pt α → Nat → Pt α} (hd : Dest rd (3 * n))
    (h1 : Source s rs1 (3 * n)) (hk : kValid s k = true) {X : (Spec.curve (φ E.a) b).Point}
    (hX : Spec.Represents (Spec.evPt n ev (canon s) rs1.toNat) X)
    (hop : ∀ {P}, CanonRepresents φ ok P X → CanonRepresents φ ok (op P (kReg s k)) (kReg s k • X)) :
    ∃ t, ptOpK E op rd rs1 k s = .next t ∧ Spec.Represents (Spec.evPt n ev (canon t) rd.toNat) (kReg s k • X) := by
  rw [h.evPt_eq] at hX
  obtain ⟨hok, hrep⟩ := hop ⟨h.readPt_ok hs h1, hX⟩
  obtain ⟨t, ht, -, hval⟩ := h.ptOpK_next hs hd h1 hk hok
  exact ⟨t, ht, hval ▸ hrep⟩

/-- The commands of either group are the operations of the group of the curve (R290, R309). -/
theorem CurveModel.groupLaw (h2 : (2 : F) ≠ 0) {pdbl pneg : CellIdx → CellIdx → Instr}
    {padd pmadd : CellIdx → CellIdx → CellIdx → Instr} {psmul : CellIdx → CellIdx → KIdx → Instr}
    {psmulw : CellIdx → CellIdx → KIdx → BitVec 3 → Instr}
    (hcmd : Spec.PointCommands s n ev (φ E.a) pdbl padd pmadd pneg)
    (hsmul : ∀ rd rs1 k, exec (psmul rd rs1 k) s = ptOpK E (smul E.K E.a) rd rs1 k s)
    (hsmulw : ∀ rd rs1 k wm1, exec (psmulw rd rs1 k wm1) s =
      ptOpK E (fun P k => smulw E.K E.a P k (wm1.toNat + 1)) rd rs1 k s) :
    Spec.GroupLaw s n ev (φ E.a) b pdbl padd pmadd pneg psmul psmulw := by
  intro rd rs1 P hd h1 hP
  have hgroup := h.model.groupModel (b := b) h2 h.a_ok
  refine ⟨?_, ?_, fun rs2 Q hsrc hQ => ?_, fun rs2 Q hsrc hQ => ?_, fun k hk => ⟨?_, fun wm1 => ?_⟩⟩
  · obtain ⟨⟨t, ht, -, hval⟩, -⟩ := hcmd rd rs1 rs1 hd h1
    exact ⟨t, ht, hval ▸ represents_dbl h2 hP⟩
  · obtain ⟨-, -, -, t, ht, -, hval⟩ := hcmd rd rs1 rs1 hd h1
    exact ⟨t, ht, hval ▸ represents_neg hP⟩
  · obtain ⟨-, hadd, -⟩ := hcmd rd rs1 rs2 hd h1
    obtain ⟨t, ht, -, hval⟩ := hadd hsrc
    exact ⟨t, ht, hval ▸ represents_add h2 hP hQ⟩
  · obtain ⟨-, -, hmadd, -⟩ := hcmd rd rs1 rs2 hd h1
    obtain ⟨t, ht, -, hval⟩ := hmadd hsrc
    rw [madd_eq_add] at hval
    exact ⟨t, ht, hval ▸ represents_add h2 hP hQ⟩
  · rw [hsmul]
    exact h.ptOpK_represents hs hd h1 hk hP fun hX => hgroup.rel_smul hX _
  · rw [hsmulw]
    exact h.ptOpK_represents hs hd h1 hk hP fun hX => hgroup.rel_smulw hX _ (Nat.succ_pos _)

end

/-! ## The obligations -/

/-- Settles O54: the formulas are the chord and tangent rule, and the multipliers are made of them. -/
theorem g1GroupLaw : Obligations.G1GroupLaw := by
  intro s F _ _ φ hs
  have h := curveModel_of_ringEquiv φ (curveModel_g1 hs.1)
  have hp : (s.cfg.p : F) = 0 := by rw [← map_natCast φ, ZMod.natCast_self, map_zero]
  have h2 : (2 : F) ≠ 0 := two_ne_zero_of_natCast_eq_zero (modulus_facts hs.1.2).1 hp
  have hlaw := h.groupLaw (b := (s.cfg.curveB : F)) hs h2 (pointCommands_g1 hs h) (psmul := .psmul)
    (psmulw := .psmulw) (fun _ _ _ => rfl) fun _ _ _ _ => rfl
  rwa [map_natCast] at hlaw

/-- Settles O55: as for G1, over any copy of `Fp2`, where the coefficient `a` is zero. -/
theorem g2GroupLaw : Obligations.G2GroupLaw := by
  intro s F _ _ φ hs hg
  have h := curveModel_of_ringEquiv φ (curveModel_g2 hs.1 hg)
  have hp : (s.cfg.p : F) = 0 := by
    rw [← map_natCast φ, ← map_natCast (AdjoinRoot.of _), ZMod.natCast_self, map_zero, map_zero]
  have h2 : (2 : F) ≠ 0 := two_ne_zero_of_natCast_eq_zero (modulus_facts hs.1.2).1 hp
  have hlaw := h.groupLaw (b := (s.cfg.curveB : F) * (φ (Spec.elF2 s.cfg s.cfg.twist))⁻¹) hs h2
    (pointCommands_g2 hs h) (psmul := .qsmul) (psmulw := .qsmulw) (fun _ _ _ => rfl) fun _ _ _ _ => rfl
  rwa [elF2_g2_a hs.1.1.one_lt, map_zero] at hlaw

end Sys2Proof.Machine

/-! PROOFS. Scalar multiplication (45_scalar_mul.md): the two multipliers follow the digits of the scalar as the
formulas of the ring do, and the window lookup finds the first entry that exceeds the register. -/

namespace Sys2Proof.Machine

/-! ## The digits of a scalar (R300, R301) -/

/-- The `i` lowest digits of `k` in base `b`, the most significant first: what is left to the loops of R300 and R301
at the index `i`. -/
def lowDigits (b k i : Nat) : List Nat := (List.range i).reverse.map fun j => k / b ^ j % b

theorem lowDigits_succ (b k i : Nat) : lowDigits b k (i + 1) = k / b ^ i % b :: lowDigits b k i := by
  simp [lowDigits, List.range_succ]

theorem digitsFrom_eq_lowDigits {b : Nat} (hb : 1 < b) (k : Nat) :
    Spec.digitsFrom b k = lowDigits b k (Nat.digits b k).length := by
  rw [Spec.digitsFrom, lowDigits, List.map_reverse]
  congr 1
  refine List.ext_getElem (by simp) fun i hi _ => ?_
  rw [List.getElem_map, List.getElem_range, ← Nat.getD_digits k i hb, List.getD_eq_getElem _ _ hi]

/-- The number of windows of R301 is the number of digits. -/
theorem length_digits_two_pow {w : Nat} (hw : 0 < w) (k : Nat) :
    (Nat.digits (2 ^ w) k).length = (bitlen k + w - 1) / w := by
  refine eq_of_forall_ge_iff fun l => ?_
  rw [Nat.digits_length_le_iff (Nat.one_lt_two_pow hw.ne'), ← pow_mul, ← Nat.size_le, ← bitlen_eq_size,
    ← Nat.ceilDiv_eq_add_pred_div, ceilDiv_le_iff_le_mul hw]

theorem digitsFrom_two_pow {w : Nat} (hw : 0 < w) (k : Nat) :
    Spec.digitsFrom (2 ^ w) k = lowDigits (2 ^ w) k ((bitlen k + w - 1) / w) := by
  rw [digitsFrom_eq_lowDigits (Nat.one_lt_two_pow hw.ne'), length_digits_two_pow hw]

/-- Below the most significant bit stand the `bitlen k - 1` bits of the loop of R300. -/
theorem digitsFrom_two {k : Nat} (hk : k ≠ 0) :
    ∃ msb, Spec.digitsFrom 2 k = msb :: lowDigits 2 k (bitlen k - 1) := by
  have hlen : bitlen k = bitlen k - 1 + 1 := by simp [bitlen, hk]
  have hdigits := digitsFrom_two_pow Nat.one_pos k
  rw [pow_one, Nat.add_sub_cancel, Nat.div_one, hlen, lowDigits_succ] at hdigits
  exact ⟨_, hdigits⟩

/-! ## The multipliers in the ring (R300, R301) -/

section
variable {A : Type} [CommRing A]

/-- What the formula of R300 does at one bit. -/
noncomputable def bitStep (a : A) (P acc : Pt A) (d : Nat) : Pt A :=
  if d = 1 then Spec.add a (Spec.dbl a acc) P else Spec.dbl a acc

/-- What the formula of R301 does at one digit. -/
noncomputable def windowStep (a : A) (P : Pt A) (w : Nat) (acc : Pt A) (d : Nat) : Pt A :=
  if d = 0 then (Spec.dbl a)^[w] acc else Spec.add a ((Spec.dbl a)^[w] acc) (Spec.entry a P d)

theorem spec_smul_zero (a : A) (P : Pt A) : Spec.smul a P 0 = Spec.zeroPt := by
  simp [Spec.smul, Spec.digitsFrom]

theorem spec_smul_eq (a : A) (P : Pt A) {k : Nat} (hk : k ≠ 0) :
    Spec.smul a P k = (lowDigits 2 k (bitlen k - 1)).foldl (bitStep a P) P := by
  obtain ⟨msb, hdigits⟩ := digitsFrom_two hk
  rw [Spec.smul, hdigits]
  rfl

theorem spec_smulw_zero (a : A) (P : Pt A) (w : Nat) : Spec.smulw a P 0 w = Spec.zeroPt := by
  simp [Spec.smulw, Spec.digitsFrom]

theorem spec_smulw_eq (a : A) (P : Pt A) (k : Nat) {w : Nat} (hw : 0 < w) :
    Spec.smulw a P k w =
      (lowDigits (2 ^ w) k ((bitlen k + w - 1) / w)).foldl (windowStep a P w) Spec.zeroPt := by
  rw [← digitsFrom_two_pow hw]
  rfl

end

/-- The triple is canonical, and its image in the ring is `X`. -/
def CanonImage {α A : Type} (φ : α → A) (ok : α → Prop) (P : Pt α) (X : Pt A) : Prop := okPt ok P ∧ mapPt φ P = X

section
variable {α A : Type} [DecidableEq α] [CommRing A] {K : Fld α} {φ : α → A} {ok : α → Prop}
  (h : FldModel K A φ ok)
include h

omit [DecidableEq α] in
theorem FldModel.image_ptZero : CanonImage φ ok (ptZero K) Spec.zeroPt := ⟨okPt_ptZero h, mapPt_ptZero h⟩

variable {a : α} (ha : ok a) {P Q acc : Pt α} {X Y Z : Pt A}
include ha

theorem FldModel.image_ptDbl (hP : CanonImage φ ok P X) : CanonImage φ ok (ptDbl K a P) (Spec.dbl (φ a) X) := by
  obtain ⟨hok, rfl⟩ := hP
  exact ⟨okPt_ptDbl h a hok, mapPt_ptDbl h ha hok⟩

theorem FldModel.image_ptAdd (hP : CanonImage φ ok P X) (hQ : CanonImage φ ok Q Y) :
    CanonImage φ ok (ptAdd K a P Q) (Spec.add (φ a) X Y) := by
  obtain ⟨hPok, rfl⟩ := hP
  obtain ⟨hQok, rfl⟩ := hQ
  exact ⟨okPt_ptAdd h a hPok hQok, mapPt_ptAdd h ha hPok hQok⟩

theorem FldModel.image_dblTimes (w : Nat) (hacc : CanonImage φ ok acc Z) :
    CanonImage φ ok (dblTimes K a w acc) ((Spec.dbl (φ a))^[w] Z) := by
  induction w generalizing acc Z with
  | zero => exact hacc
  | succ w ih => exact ih (h.image_ptDbl ha hacc)

variable (hP : CanonImage φ ok P X)
include hP

theorem FldModel.image_smulLoop (k i : Nat) (hacc : CanonImage φ ok acc Z) :
    CanonImage φ ok (smulLoop K a P k i acc) ((lowDigits 2 k i).foldl (bitStep (φ a) X) Z) := by
  induction i generalizing acc Z with
  | zero => exact hacc
  | succ i ih =>
    have hd := h.image_ptDbl ha hacc
    rw [smulLoop, lowDigits_succ, List.foldl_cons]
    apply ih
    simp only [bitStep, Nat.testBit_eq_decide_div_mod_eq, decide_eq_true_eq]
    split
    · exact h.image_ptAdd ha hd hP
    · exact hd

/-- Double-and-add (R300). -/
theorem FldModel.image_smul (k : Nat) : CanonImage φ ok (smul K a P k) (Spec.smul (φ a) X k) := by
  by_cases hk : k = 0
  · rw [smul, if_pos hk, hk, spec_smul_zero]
    exact h.image_ptZero
  · rw [smul, if_neg hk, spec_smul_eq _ _ hk]
    exact h.image_smulLoop ha hP k _ hP

/-- The entries after entry `n + 1` of the table. -/
theorem FldModel.image_windowEntries {i m n : Nat} (hi : i < m)
    (hacc : CanonImage φ ok acc (Spec.entry (φ a) X (n + 1))) :
    CanonImage φ ok ((windowEntries K a P m acc).getD i (ptZero K)) (Spec.entry (φ a) X (n + i + 2)) := by
  induction m generalizing acc n i with
  | zero => omega
  | succ m ih =>
    have hnext : CanonImage φ ok (ptAdd K a acc P) (Spec.entry (φ a) X (n + 2)) := h.image_ptAdd ha hacc hP
    cases i with
    | zero => exact hnext
    | succ i =>
      have hrest := ih (Nat.lt_of_succ_lt_succ hi) hnext
      rwa [Nat.succ_add_eq_add_succ] at hrest

theorem FldModel.image_windowTable {w d : Nat} (hd : d < 2 ^ w) :
    CanonImage φ ok ((windowTable K a P w).getD d (ptZero K)) (Spec.entry (φ a) X d) := by
  match d with
  | 0 => exact h.image_ptZero
  | 1 => exact hP
  | d + 2 =>
    have hentry := h.image_windowEntries ha hP (i := d) (m := 2 ^ w - 2) (n := 0) (by omega) hP
    rwa [Nat.zero_add] at hentry

theorem FldModel.image_smulwLoop (k w i : Nat) (hacc : CanonImage φ ok acc Z) :
    CanonImage φ ok (smulwLoop K a (windowTable K a P w) k w i acc)
      ((lowDigits (2 ^ w) k i).foldl (windowStep (φ a) X w) Z) := by
  induction i generalizing acc Z with
  | zero => exact hacc
  | succ i ih =>
    have hd := h.image_dblTimes ha w hacc
    have hlt : k / 2 ^ (i * w) % 2 ^ w < 2 ^ w := Nat.mod_lt _ (Nat.two_pow_pos w)
    rw [smulwLoop, lowDigits_succ, List.foldl_cons, Nat.shiftRight_eq_div_pow, ← pow_mul, mul_comm w]
    apply ih
    rw [windowStep, ite_not]
    split
    · exact hd
    · exact h.image_ptAdd ha hd (h.image_windowTable ha hP hlt)

/-- The fixed window (R301). -/
theorem FldModel.image_smulw (k : Nat) {w : Nat} (hw : 0 < w) :
    CanonImage φ ok (smulw K a P k w) (Spec.smulw (φ a) X k w) := by
  by_cases hk : k = 0
  · rw [smulw, if_pos hk, hk, spec_smulw_zero]
    exact h.image_ptZero
  · rw [smulw, if_neg hk, spec_smulw_eq _ _ _ hw]
    exact h.image_smulwLoop ha hP k w _ h.image_ptZero

end

/-! ## The commands of the multipliers (R303, R304, R306, R307) -/

section
variable {α A : Type} [CommRing A] {E : Curve α} {n : Nat} {φ : α → A} {ok : α → Prop}
  {ev : (Nat → Nat) → Nat → A} {s : State} (h : CurveModel s.cfg E n A φ ok ev) (hs : Sound s)
  {rd rs1 : CellIdx} {k : KIdx} (hd : Dest rd (3 * n)) (h1 : Source s rs1 (3 * n)) (hk : kValid s k = true)
include h hs hd h1 hk

/-- A scalar multiplier whose value rule is the formula `f` of the ring. -/
theorem CurveModel.ptOpK_image {op : Pt α → Nat → Pt α} {f : Pt A → Nat → Pt A}
    (hop : ∀ {P X}, CanonImage φ ok P X → CanonImage φ ok (op P (kReg s k)) (f X (kReg s k))) :
    ∃ t, ptOpK E op rd rs1 k s = .next t ∧ OnlyCells s t rd (3 * n) ∧
      Spec.evPt n ev (canon t) rd.toNat = f (Spec.evPt n ev (canon s) rs1.toNat) (kReg s k) := by
  obtain ⟨hok, hval⟩ := hop ⟨h.readPt_ok hs h1, (h.evPt_eq s rs1.toNat).symm⟩
  rw [← hval]
  exact h.ptOpK_next hs hd h1 hk hok

variable [DecidableEq α]

theorem CurveModel.smul_next :
    ∃ t, ptOpK E (smul E.K E.a) rd rs1 k s = .next t ∧ OnlyCells s t rd (3 * n) ∧
      Spec.evPt n ev (canon t) rd.toNat =
        Spec.smul (φ E.a) (Spec.evPt n ev (canon s) rs1.toNat) (kReg s k) :=
  h.ptOpK_image hs hd h1 hk fun hP => h.model.image_smul h.a_ok hP _

theorem CurveModel.smulw_next {w : Nat} (hw : 0 < w) :
    ∃ t, ptOpK E (fun P k => smulw E.K E.a P k w) rd rs1 k s = .next t ∧ OnlyCells s t rd (3 * n) ∧
      Spec.evPt n ev (canon t) rd.toNat =
        Spec.smulw (φ E.a) (Spec.evPt n ev (canon s) rs1.toNat) (kReg s k) w :=
  h.ptOpK_image hs hd h1 hk (f := fun X k => Spec.smulw (φ E.a) X k w) fun hP =>
    h.model.image_smulw h.a_ok hP _ hw

end

/-! ## The window lookup (R302) -/

/-- Either a first entry exceeds `n` and its width is the answer, or none does and the answer is 22. -/
theorem winSelFrom_cases (n w : Nat) (es : List (BitVec 32)) :
    (∃ i < es.length, winSelFrom n w es = w + i ∧ n < (es.getD i 0).toNat ∧
      ∀ j < i, (es.getD j 0).toNat ≤ n) ∨
    (winSelFrom n w es = 22 ∧ ∀ j < es.length, (es.getD j 0).toNat ≤ n) := by
  induction es generalizing w with
  | nil => exact .inr ⟨rfl, fun j hj => absurd hj (Nat.not_lt_zero j)⟩
  | cons e es ih =>
    rw [winSelFrom]
    by_cases he : n < e.toNat
    · rw [if_pos he]
      exact .inl ⟨0, Nat.succ_pos _, rfl, he, fun j hj => absurd hj (Nat.not_lt_zero j)⟩
    · rw [if_neg he]
      have hhead := Nat.le_of_not_lt he
      obtain ⟨i, hi, hw, hgt, hle⟩ | ⟨hw, hle⟩ := ih (w + 1)
      · refine .inl ⟨i + 1, Nat.succ_lt_succ hi, by omega, hgt, fun j hj => ?_⟩
        cases j with
        | zero => exact hhead
        | succ j => exact hle j (by omega)
      · refine .inr ⟨hw, fun j hj => ?_⟩
        cases j with
        | zero => exact hhead
        | succ j => exact hle j (Nat.lt_of_succ_lt_succ hj)

/-- `r` is the least width in `1..22` whose entry exceeds `n`, or else 22 (R302); entry `w - 1` of the table is that of
the width `w`. -/
def IsWindow (tab : Vector (BitVec 32) 22) (n r : Nat) : Prop :=
  1 ≤ r ∧ r ≤ 22 ∧ (∀ w, 1 ≤ w → w < r → (tab.toList.getD (w - 1) 0).toNat ≤ n) ∧
  ((∃ w, 1 ≤ w ∧ w ≤ 22 ∧ n < (tab.toList.getD (w - 1) 0).toNat) → n < (tab.toList.getD (r - 1) 0).toNat) ∧
  ((∀ w, 1 ≤ w → w ≤ 22 → (tab.toList.getD (w - 1) 0).toNat ≤ n) → r = 22)

theorem isWindow_winSel (tab : Vector (BitVec 32) 22) (n : Nat) : IsWindow tab n (winSel tab n) := by
  have hlen : tab.toList.length = 22 := tab.length_toList
  obtain ⟨i, hi, hw, hgt, hle⟩ | ⟨hw, hle⟩ := winSelFrom_cases n 1 tab.toList
  · rw [winSel, hw]
    refine ⟨by omega, by omega, fun w _ _ => hle _ (by omega), fun _ => ?_, fun hnone => ?_⟩
    · rwa [Nat.add_sub_cancel_left]
    · have hlast := hnone (1 + i) (by omega) (by omega)
      rw [Nat.add_sub_cancel_left] at hlast
      exact absurd hgt hlast.not_gt
  · rw [winSel, hw]
    refine ⟨by omega, le_rfl, fun w _ _ => hle _ (by omega), fun ⟨w, _, _, hgt⟩ => ?_, fun _ => rfl⟩
    exact absurd hgt (hle _ (by omega)).not_gt

theorem winOp_next {feature : Bool} (hf : feature = true) (tab : Vector (BitVec 32) 22) (kd : KIdx) {ks : KIdx}
    {s : State} (hk : kValid s ks = true) :
    ∃ t, winOp feature tab kd ks s = .next t ∧ OnlyK s t kd ∧ IsWindow tab (kReg s ks) (kReg t kd) := by
  have hsel := isWindow_winSel tab (kReg s ks)
  have ⟨_, hle, _⟩ := hsel
  have hread : kReg (setK s kd (winSel tab (kReg s ks))) kd = winSel tab (kReg s ks) :=
    kReg_setK_self s kd (hle.trans_lt (by decide +kernel))
  rw [← hread] at hsel
  subst hf
  exact ⟨_, command_ok (checkNeeds_reg hk) rfl, onlyK_setK _ _ _, hsel⟩

/-! ## The obligations -/

/-- Settles O52: loop and formula go through the same digits, and Dbl and Add agree at each. -/
theorem scalarMultiplication : Obligations.ScalarMultiplication := by
  intro s rd rs1 k wm1 hs hk
  have hw : 0 < wm1.toNat + 1 := Nat.succ_pos _
  refine ⟨fun hd h1 => ?_, fun hg hd h1 => ?_⟩
  · have h := curveModel_g1 hs.1
    exact ⟨h.smul_next hs hd h1 hk, h.smulw_next hs hd h1 hk hw⟩
  · have h := curveModel_g2 hs.1 hg
    rw [← elF2_g2_a hs.1.1.one_lt]
    exact ⟨h.smul_next hs hd h1 hk, h.smulw_next hs hd h1 hk hw⟩

/-- Settles O53: both lookups write the answer of `WinSel`, which is the first width found or else 22. -/
theorem windowSelection : Obligations.WindowSelection := fun s kd _ hk =>
  List.forall_mem_cons.2 ⟨fun hf => winOp_next hf s.cfg.wtab1 kd hk,
    List.forall_mem_singleton.2 fun hf => winOp_next hf s.cfg.wtab2 kd hk⟩

end Sys2Proof.Machine

/-! PROOFS. The pairing engine (46_pairing_miller.md): the precomputation and the Miller loop follow the bits of the
loop count as the formulas of the ring do, and what PRECOMP, MILLER, MILLER2, PAIR and PAIRR write. -/

namespace Sys2Proof.Machine

/-! ## What the check of the configuration says of the pairing engine (R9) -/

/-- `TWO_INV` in `Fp2` (R11). -/
noncomputable abbrev half2 (c : Config) : Spec.A2 c := twoInv c

/-- `TWIST_B` in `Fp2` (R11). -/
noncomputable abbrev twistB2 (c : Config) : Spec.A2 c := Spec.elF2 c (twistB c)

section
variable {c : Config} (h : c.WF)
include h

/-- The rows `HAS_PAIR` to `CHAIN` of the check. -/
theorem pairing_facts : (c.hasPair = true → c.hasG2 = true ∧ c.hasFp12 = true) ∧ c.loopcount ≠ 0 ∧
    chainReadsOk c.chainout c.chain [0] = true := by
  have hp : pairingOk c = true := by
    have hw := h.2
    simp only [Config.wfCheck, Bool.and_eq_true] at hw
    obtain ⟨-, -, -, hpairing⟩ := hw
    exact hpairing
  simp only [pairingOk, chainOk, Bool.and_eq_true, Bool.or_eq_true, Bool.not_eq_true', decide_eq_true_eq] at hp
  obtain ⟨⟨hpair, hcount⟩, -, hchain⟩ := hp
  refine ⟨fun hf => ?_, Nat.one_le_iff_ne_zero.1 hcount, hchain⟩
  obtain ⟨⟨⟨hg2, h12⟩, -⟩, -⟩ := hpair.resolve_left (by simp [hf])
  exact ⟨hg2, h12⟩

theorem hasG2_of_hasPair (hf : c.hasPair = true) : c.hasG2 = true := by
  obtain ⟨hpair, -⟩ := pairing_facts h
  exact (hpair hf).1

theorem hasFp12_of_hasPair (hf : c.hasPair = true) : c.hasFp12 = true := by
  obtain ⟨hpair, -⟩ := pairing_facts h
  exact (hpair hf).2

theorem loopcount_ne_zero : c.loopcount ≠ 0 := by
  obtain ⟨-, hcount, -⟩ := pairing_facts h
  exact hcount

theorem chainReadsOk_of_wf : chainReadsOk c.chainout c.chain [0] = true := by
  obtain ⟨-, -, hchain⟩ := pairing_facts h
  exact hchain

theorem two_mul_half2 : 2 * half2 c = 1 := by
  obtain ⟨-, hgt, -⟩ := modulus_facts h.2
  have hinv := mul_invMod h.1 (a := 2) (by rw [Nat.mod_eq_of_lt (by omega)]; decide)
  have hcast : ((2 * twoInv c % c.p : Nat) : Spec.A1 c) = 1 := by rw [twoInv, hinv, Nat.cast_one]
  rw [ZMod.natCast_mod] at hcast
  have hmap := congrArg (AdjoinRoot.of (Polynomial.X ^ 2 - Polynomial.C (c.nr2 : Spec.A1 c))) hcast
  rwa [Nat.cast_mul, map_mul, map_natCast, map_natCast, map_one, Nat.cast_two] at hmap

theorem pairingConstants (hf : c.hasPair = true) :
    Spec.PairingConstants c (half2 c) (twistB2 c) :=
  ⟨two_mul_half2 h, elF2_twist_mul_twistB h (hasG2_of_hasPair h hf)⟩

end

/-! ## The two steps (R320, R321) -/

theorem elF2_scale2 (c : Config) (x : Fp) (a : F2) :
    Spec.elF2 c (scale2 c x a) = (x : Spec.A2 c) * Spec.elF2 c a := by
  have hcast (y : Nat) : ((y % c.p : Nat) : Spec.A2 c) = y := by
    rw [← map_natCast (AdjoinRoot.of _), ← map_natCast (AdjoinRoot.of _), ZMod.natCast_mod]
  simp only [Spec.elF2, Spec.el2, scale2, hcast, Nat.cast_mul]
  ring

section
variable {c : Config} (hm : FldModel (fp2 c) (Spec.A2 c) (Spec.elF2 c) (ok2 c))
include hm

/-- `DoublingStep` (R320). -/
theorem map_doublingStep (r : Pt F2) :
    Prod.map (mapPt (Spec.elF2 c)) (Spec.elLine c) (doublingStep c r) =
      Spec.dblStep (half2 c) (Spec.elF2 c c.twist) (twistB2 c) (mapPt (Spec.elF2 c) r) := by
  simp only [doublingStep, Spec.dblStep, Prod.map, mapPt, Spec.elLine, hm.map_add, hm.map_sub, hm.map_mul, hm.map_neg,
    hm.map_sqr, hm.map_tpl, elF2_scale2, Prod.mk.injEq, Pt.mk.injEq, Spec.Line.mk.injEq]
  refine ⟨⟨by ring, by ring, by ring⟩, by ring, trivial, by ring⟩

/-- `AdditionStep` (R321). -/
theorem map_additionStep (r : Pt F2) (q : Aff F2) :
    Prod.map (mapPt (Spec.elF2 c)) (Spec.elLine c) (additionStep c r q) =
      Spec.addStep (Spec.elF2 c c.twist) (mapPt (Spec.elF2 c) r) (mapAff (Spec.elF2 c) q) := by
  simp only [additionStep, Spec.addStep, Prod.map, mapPt, mapAff, Spec.elLine, hm.map_add, hm.map_sub, hm.map_mul,
    hm.map_neg, hm.map_sqr, hm.map_dbl, Prod.mk.injEq, Pt.mk.injEq]
  refine ⟨⟨by ring, by ring, by ring⟩, trivial⟩

end

/-! ## The main loop of the precomputation (R322) -/

/-- The sum of the binary digits counts the set bits (R29). -/
theorem sum_lowDigits_two (n i : Nat) : (lowDigits 2 n i).sum = popcountBelow n i := by
  induction i with
  | zero => rfl
  | succ i ih =>
    have hbit : n / 2 ^ i % 2 = (n.testBit i).toNat := by
      rw [Nat.testBit_eq_decide_div_mod_eq]
      rcases Nat.mod_two_eq_zero_or_one (n / 2 ^ i) with h | h <;> simp [h]
    rw [lowDigits_succ, List.sum_cons, ih, hbit, popcountBelow, Nat.add_comm]

theorem length_digits_two (n : Nat) : (Nat.digits 2 n).length = bitlen n := by
  have h := length_digits_two_pow Nat.one_pos n
  rwa [pow_one, Nat.add_sub_cancel, Nat.div_one] at h

theorem sum_digits_two (n : Nat) : (Nat.digits 2 n).sum = popcount n := by
  rw [← List.sum_reverse, ← Spec.digitsFrom, digitsFrom_eq_lowDigits Nat.one_lt_two, sum_lowDigits_two,
    length_digits_two, popcount]

/-- `NREC` by the binary digits of the loop count (R29). -/
theorem nrec_eq_digits (c : Config) : nrec c = ((Nat.digits 2 c.loopcount).length - 1) +
    ((Nat.digits 2 c.loopcount).sum - 1) + (if c.loopneg then 1 else 0) := by
  rw [nrec, length_digits_two, sum_digits_two, Bool.toNat, Bool.cond_eq_ite]

/-- What the main loop of the formula does at one bit. -/
def mainStep {A : Type} [CommRing A] (half tw B : A) (q : Aff A) (st : Pt A × List (Spec.Line A)) (d : Nat) :
    Pt A × List (Spec.Line A) :=
  let r1 := Spec.dblStep half tw B st.1
  let r2 := Spec.addStep tw r1.1 q
  if d = 1 then (r2.1, st.2 ++ [r1.2, r2.2]) else (r1.1, st.2 ++ [r1.2])

theorem mainLoop_eq_foldl {A : Type} [CommRing A] (half tw B : A) (q : Aff A) {n : Nat} (hn : n ≠ 0) :
    Spec.mainLoop half tw B q n =
      (lowDigits 2 n (bitlen n - 1)).foldl (mainStep half tw B q) (⟨q.x, q.y, 1⟩, []) := by
  obtain ⟨msb, hdigits⟩ := digitsFrom_two hn
  rw [Spec.mainLoop, hdigits]
  rfl

/-- The main loop of the model, from the affine point (R322). -/
def precomputeMain (c : Config) (q : Aff F2) : Pt F2 × List LineRec :=
  precomputeLoop c q (bitlen c.loopcount - 1) ⟨q.x, q.y, (fp2 c).one⟩

section
variable {c : Config} (hm : FldModel (fp2 c) (Spec.A2 c) (Spec.elF2 c) (ok2 c))
include hm

theorem precomputeLoop_z_ok (q : Aff F2) (i : Nat) {r : Pt F2} (hr : ok2 c r.z) :
    ok2 c (precomputeLoop c q i r).1.z := by
  induction i generalizing r with
  | zero => exact hr
  | succ i ih =>
    rw [precomputeLoop]
    split
    · exact ih (hm.mul_ok _ _)
    · exact ih (hm.mul_ok _ _)

/-- The loop of the model runs through the bits as the formula does, records appended to those before. -/
theorem foldl_mainStep_lowDigits (q : Aff F2) (i : Nat) (r : Pt F2) (ls : List (Spec.Line (Spec.A2 c))) :
    (lowDigits 2 c.loopcount i).foldl
        (mainStep (half2 c) (Spec.elF2 c c.twist) (twistB2 c) (mapAff (Spec.elF2 c) q))
        (mapPt (Spec.elF2 c) r, ls) =
      (mapPt (Spec.elF2 c) (precomputeLoop c q i r).1, ls ++ (precomputeLoop c q i r).2.map (Spec.elLine c)) := by
  induction i generalizing r ls with
  | zero => simp [lowDigits, precomputeLoop]
  | succ i ih =>
    rw [lowDigits_succ, List.foldl_cons, mainStep, ← map_doublingStep hm, Prod.map_fst, ← map_additionStep hm,
      precomputeLoop, Nat.testBit_eq_decide_div_mod_eq]
    simp only [decide_eq_true_eq]
    split
    · exact (ih (additionStep c (doublingStep c r).1 q).1 _).trans (by simp)
    · exact (ih (doublingStep c r).1 _).trans (by simp)

theorem mainLoop_eq_precomputeMain (q : Aff F2) (hn : c.loopcount ≠ 0) :
    Spec.mainLoop (half2 c) (Spec.elF2 c c.twist) (twistB2 c) (mapAff (Spec.elF2 c) q)
        c.loopcount =
      Prod.map (mapPt (Spec.elF2 c)) (List.map (Spec.elLine c)) (precomputeMain c q) := by
  have hloop := foldl_mainStep_lowDigits hm q (bitlen c.loopcount - 1) ⟨q.x, q.y, (fp2 c).one⟩ []
  rw [mapPt, hm.map_one] at hloop
  rw [mainLoop_eq_foldl _ _ _ _ hn]
  exact hloop

end

/-! ## The precomputation (R322) -/

section
variable {c : Config} (Q : Pt F2)

theorem precompute_of_pos (hneg : c.loopneg = false) : precompute c Q =
    .ok ⟨(ptToAffine (fp2 c) Q).x, (ptToAffine (fp2 c) Q).y, (precomputeMain c (ptToAffine (fp2 c) Q)).2⟩ := by
  simp only [precompute, hneg, Bool.false_eq_true, if_false]
  rfl

theorem precompute_of_neg (hneg : c.loopneg = true) : precompute c Q =
    (negativeCountStep c (precomputeMain c (ptToAffine (fp2 c) Q)).1).map fun l =>
      ⟨(ptToAffine (fp2 c) Q).x, (ptToAffine (fp2 c) Q).y,
        (precomputeMain c (ptToAffine (fp2 c) Q)).2 ++ [l]⟩ := by
  simp only [precompute, hneg, if_true]
  rfl

end

/-- The step of a negative loop count cannot divide by zero (R322). -/
theorem negativeCountStep_of_zero {c : Config} {r : Pt F2} (h0 : r.z = (fp2 c).zero) :
    negativeCountStep c r = .error .invzero := by
  rw [negativeCountStep, invOrFault, if_pos h0]
  rfl

/-- The record of the step of a negative loop count is that of R322, with an inverse of `Z`. -/
theorem negativeCountStep_of_ne {c : Config} (hT : TowerFld c.p (fp2 c) (Spec.A2 c) (Spec.elF2 c) (ok2 c)) {r : Pt F2}
    (hr : ok2 c r.z) (h0 : r.z ≠ (fp2 c).zero) :
    ∃ l zi, negativeCountStep c r = .ok l ∧ (mapPt (Spec.elF2 c) r).z * zi = 1 ∧
      Spec.elLine c l = Spec.negStep (Spec.elF2 c c.twist) (mapPt (Spec.elF2 c) r) zi := by
  rw [negativeCountStep, invOrFault, if_neg h0]
  refine ⟨_, Spec.elF2 c ((fp2 c).inv r.z), rfl, hT.map_inv _ ((hT.model.eq_zero_iff hr).not.1 h0), ?_⟩
  refine (congrArg Prod.snd (map_additionStep hT.model r _)).trans ?_
  simp only [Spec.negStep, mapAff, mapPt, hT.model.map_mul, hT.model.map_neg]

/-- A point that is not the identity has one affine form (R266). -/
theorem aff_unique {A : Type} [CommRing A] (hA : IsField A) {P : Pt A} (hz : P.z ≠ 0) {q r : Aff A}
    (hqx : q.x * P.z ^ 2 = P.x) (hqy : q.y * P.z ^ 3 = P.y) (hrx : r.x * P.z ^ 2 = P.x)
    (hry : r.y * P.z ^ 3 = P.y) : q = r := by
  have := hA.isDomain
  exact congrArg₂ Aff.mk (mul_right_cancel₀ (pow_ne_zero 2 hz) (hqx.trans hrx.symm))
    (mul_right_cancel₀ (pow_ne_zero 3 hz) (hqy.trans hry.symm))

section
variable {c : Config} (h : c.WF) (hf : c.hasPair = true) {Q : Pt F2} (hz : (mapPt (Spec.elF2 c) Q).z ≠ 0)
include h hf

theorem towerFld_fp2_of_hasPair : TowerFld c.p (fp2 c) (Spec.A2 c) (Spec.elF2 c) (ok2 c) :=
  towerFld_fp2_of_hasG2 h (hasG2_of_hasPair h hf)

theorem precomputeMain_z_ok (q : Aff F2) : ok2 c (precomputeMain c q).1.z :=
  have hm := (towerFld_fp2_of_hasPair h hf).model
  precomputeLoop_z_ok hm q _ hm.one_ok

include hz

theorem affine_of_ptToAffine :
    (mapAff (Spec.elF2 c) (ptToAffine (fp2 c) Q)).x * (mapPt (Spec.elF2 c) Q).z ^ 2 = (mapPt (Spec.elF2 c) Q).x ∧
    (mapAff (Spec.elF2 c) (ptToAffine (fp2 c) Q)).y * (mapPt (Spec.elF2 c) Q).z ^ 3 = (mapPt (Spec.elF2 c) Q).y :=
  have hT := towerFld_fp2_of_hasPair h hf
  mapAff_ptToAffine hT.model (hT.map_inv _ hz)

/-- The affine point that `LoopVanishes` speaks of is the one that the model computes. -/
theorem loopVanishes_iff : Spec.LoopVanishes c (half2 c) (twistB2 c) (mapPt (Spec.elF2 c) Q) ↔
    c.loopneg = true ∧ (precomputeMain c (ptToAffine (fp2 c) Q)).1.z = (fp2 c).zero := by
  have hT := towerFld_fp2_of_hasPair h hf
  obtain ⟨hx, hy⟩ := affine_of_ptToAffine h hf hz
  rw [hT.model.eq_zero_iff (precomputeMain_z_ok h hf _)]
  have hmain : (Spec.mainLoop (half2 c) (Spec.elF2 c c.twist) (twistB2 c)
      (mapAff (Spec.elF2 c) (ptToAffine (fp2 c) Q)) c.loopcount).1.z =
        Spec.elF2 c (precomputeMain c (ptToAffine (fp2 c) Q)).1.z := by
    rw [mainLoop_eq_precomputeMain hT.model _ (loopcount_ne_zero h)]
    rfl
  refine and_congr_right fun _ => ⟨fun hall => hmain ▸ hall _ hx hy, fun h0 q hqx hqy => ?_⟩
  rw [aff_unique hT.field.isField hz hqx hqy hx hy, hmain, h0]

/-- INVZERO when the running point vanishes under a negative loop count (R322). -/
theorem precompute_of_vanishes (hv : Spec.LoopVanishes c (half2 c) (twistB2 c) (mapPt (Spec.elF2 c) Q)) :
    precompute c Q = .error .invzero := by
  obtain ⟨hneg, h0⟩ := (loopVanishes_iff h hf hz).1 hv
  rw [precompute_of_neg Q hneg, negativeCountStep_of_zero h0]
  rfl

/-- Otherwise the bank is filled as R322 says. -/
theorem precompute_of_not_vanishes (hv : ¬Spec.LoopVanishes c (half2 c) (twistB2 c) (mapPt (Spec.elF2 c) Q)) :
    ∃ bk, precompute c Q = .ok bk ∧ Spec.BankOf c (half2 c) (twistB2 c) (mapPt (Spec.elF2 c) Q) bk := by
  have hT := towerFld_fp2_of_hasPair h hf
  obtain ⟨hx, hy⟩ := affine_of_ptToAffine h hf hz
  have hmain := mainLoop_eq_precomputeMain hT.model (ptToAffine (fp2 c) Q) (loopcount_ne_zero h)
  have hlen {bk : Bank} (hbk : precompute c Q = .ok bk) := (precompute_recs_length hbk).trans (nrec_eq_digits c)
  rw [loopVanishes_iff h hf hz] at hv
  cases hneg : c.loopneg with
  | false =>
    have hbk := precompute_of_pos Q hneg
    refine ⟨_, hbk, hx, hy, fun _ => congrArg Prod.snd hmain.symm, fun hn => ?_, hlen hbk⟩
    exact absurd (hneg.symm.trans hn) Bool.false_ne_true
  | true =>
    obtain ⟨l, zi, hstep, hzi, hline⟩ :=
      negativeCountStep_of_ne hT (precomputeMain_z_ok h hf _) fun h0 => hv ⟨hneg, h0⟩
    have hbk := precompute_of_neg Q hneg
    rw [hstep] at hbk
    refine ⟨_, hbk, hx, hy, fun hn => ?_, fun _ => ⟨zi, ?_, ?_⟩, hlen hbk⟩
    · exact absurd (hn.symm.trans hneg) Bool.false_ne_true
    · exact (congrArg (fun m => m.1.z * zi) hmain).trans hzi
    · rw [List.map_append, List.map_singleton, hline]
      exact congrArg (fun m => m.2 ++ [Spec.negStep (Spec.elF2 c c.twist) m.1 zi]) hmain.symm

end

/-! ## The Miller loop (R323, R324) -/

section
variable {c : Config} {n : F2}

/-- The line function of a record (R323). -/
theorem el12Of_gLine (l : LineRec) (P : Aff Fp) :
    el12Of c n (gLine c l P) = Spec.gline c n (Spec.elLine c l) P.x P.y := by
  have hzero : Spec.el2 c (fp2 c).zero.c0 (fp2 c).zero.c1 = 0 := by simp [Spec.el2, fp2, quadExt, fp, fpOps]
  have hscale (x : Fp) (a : F2) : Spec.el2 c (scale2 c x a).c0 (scale2 c x a).c1 = x * Spec.elF2 c a :=
    elF2_scale2 c x a
  simp only [el12Of, el6Of, gLine, Spec.gline, Spec.elLine, hzero, hscale]
  rfl

/-- The product of the lines of every pair at record `i` (R324). -/
noncomputable def lineProduct (c : Config) (n : F2) (pairs : List (Aff Fp × List LineRec)) (i : Nat) : Spec.A12 c n :=
  (pairs.map fun pr => Spec.gline c n (Spec.elLine c (pr.2.getD i default)) pr.1.x pr.1.y).prod

/-- What the loop of the formula does at one bit. -/
def millerStep {A : Type} [CommRing A] (line : Nat → A) (st : A × Nat) (d : Nat) : A × Nat :=
  let f := st.1 ^ 2 * line st.2
  if d = 1 then (f * line (st.2 + 1), st.2 + 2) else (f, st.2 + 1)

theorem spec_miller_eq {A : Type} [CommRing A] {l : Nat} (hl : l ≠ 0) (neg : Bool) (line : Nat → A) :
    Spec.miller l neg line =
      let r := (lowDigits 2 l (bitlen l - 1)).foldl (millerStep line) (1, 0)
      if neg then r.1 * line r.2 else r.1 := by
  obtain ⟨msb, hdigits⟩ := digitsFrom_two hl
  rw [Spec.miller, hdigits]
  rfl

variable (hm : FldModel (fp12 c) (Spec.A12 c n) (el12Of c n) (ok12 c)) (pairs : List (Aff Fp × List LineRec))
include hm

theorem el12Of_mulLines (i : Nat) (f : F12) :
    el12Of c n (mulLines c pairs i f) = el12Of c n f * lineProduct c n pairs i := by
  unfold mulLines lineProduct
  induction pairs generalizing f with
  | nil => simp
  | cons pr pairs ih =>
    rw [List.foldl_cons, ih, hm.map_mul, el12Of_gLine, List.map_cons, List.prod_cons, mul_assoc]
    rfl

theorem foldl_millerStep_lowDigits (i idx : Nat) (f : F12) :
    (lowDigits 2 c.loopcount i).foldl (millerStep (lineProduct c n pairs)) (el12Of c n f, idx) =
      Prod.map (el12Of c n) id (millerLoop c pairs i idx f) := by
  induction i generalizing idx f with
  | zero => rfl
  | succ i ih =>
    rw [lowDigits_succ, List.foldl_cons, millerStep, ← hm.map_sqr, ← el12Of_mulLines hm, ← el12Of_mulLines hm,
      millerLoop, Nat.testBit_eq_decide_div_mod_eq]
    simp only [decide_eq_true_eq]
    split
    · exact ih _ _
    · exact ih _ _

/-- The Miller value (R324). -/
theorem el12Of_miller (hl : c.loopcount ≠ 0) :
    el12Of c n (miller c pairs) = Spec.miller c.loopcount c.loopneg (lineProduct c n pairs) := by
  have hloop := foldl_millerStep_lowDigits hm pairs (bitlen c.loopcount - 1) 0 (fp12 c).one
  rw [hm.map_one] at hloop
  rw [spec_miller_eq hl, hloop, miller]
  cases c.loopneg with
  | false => rfl
  | true => exact el12Of_mulLines hm pairs _ _

omit hm pairs in
theorem lineProduct_one (P : Aff Fp) (recs : List LineRec) : lineProduct c n [(P, recs)] =
    fun i => Spec.gline c n (Spec.elLine c (recs.getD i default)) P.x P.y :=
  funext fun _ => List.prod_singleton

omit hm pairs in
theorem lineProduct_two (P Q : Aff Fp) (recs recs' : List LineRec) : lineProduct c n [(P, recs), (Q, recs')] =
    fun i => Spec.gline c n (Spec.elLine c (recs.getD i default)) P.x P.y *
      Spec.gline c n (Spec.elLine c (recs'.getD i default)) Q.x Q.y :=
  funext fun _ => by simp [lineProduct]

end

/-! ## The writes of the Miller-loop commands (R326 to R329) -/

/-- The phase, written after the cells. -/
theorem OnlyCells.millerCells {s t : State} {b : CellIdx} (h : OnlyCells s t b 12) :
    MillerCells s (setMl t .finished) b ∧ SameBanks s (setMl t .finished) := by
  obtain ⟨hcompleted, hcells, hwritten, hk, hbanks, hflag, -, hmem⟩ := h
  exact ⟨⟨hcompleted, hcells, hwritten, hk, hflag, rfl, hmem⟩, hbanks⟩

/-- The twelve cells hold the Miller value, and the banks are as they were. -/
theorem writeMiller_spec {s : State} {rd : CellIdx} {f : F12} (hs : Sound s) (hd : Dest rd 12) (hf : ok12 s.cfg f) :
    MillerCells s (complete (writeMiller s rd f)) rd ∧ SameBanks s (complete (writeMiller s rd f)) ∧
      (fp12 s.cfg).get (canon (complete (writeMiller s rd f))) rd.toNat = f := by
  obtain ⟨t, ht, honly, hget⟩ := writeElem_next hs (cellFld_fp12 hs.1) (cellLayout_fp12 _) hd hf rfl
  have heq : complete (writeMiller s rd f) = setMl t .finished :=
    congrArg (setMl · .finished) (Host.Outcome.next.inj ht)
  obtain ⟨hcells, hbanks⟩ := honly.millerCells
  rw [heq]
  exact ⟨hcells, hbanks, hget⟩

/-- The writes of PAIR and PAIRR: bank 0 as well. -/
theorem writeMiller_setBank_spec {s : State} {rd : CellIdx} {f : F12} (hs : Sound s) (hd : Dest rd 12)
    (hf : ok12 s.cfg f) (B : Bank) :
    MillerCells s (complete (writeMiller (setBank s 0 B) rd f)) rd ∧
      OtherBanks s (complete (writeMiller (setBank s 0 B) rd f)) 0 ∧
      bank (complete (writeMiller (setBank s 0 B) rd f)) 0 = B ∧
      (fp12 s.cfg).get (canon (complete (writeMiller (setBank s 0 B) rd f))) rd.toNat = f := by
  have hs' : Sound (setBank s 0 B) := hs
  obtain ⟨hcells, hbanks, hget⟩ := writeMiller_spec hs' hd hf
  refine ⟨hcells, ⟨?_, fun d hd0 => ?_⟩, ?_, hget⟩
  · rw [(hbanks 0).2, bankValid_setBank, if_pos rfl]
  · rw [(hbanks d).1, (hbanks d).2, bank_setBank, bankValid_setBank, if_neg hd0, if_neg hd0]
    exact ⟨rfl, rfl⟩
  · rw [(hbanks 0).1, bank_setBank, if_pos rfl]

/-! ## The commands (R325 to R329) -/

section
variable {s : State} {rs1 : CellIdx} (b : BankIdx) (hs : Sound s) (hf : s.cfg.hasPair = true) (h1 : Source s rs1 6)
include hf h1

theorem checkNeeds_precomp :
    checkNeeds { feature := s.cfg.hasPair, src := [ptSpan (fp2 s.cfg) rs1] } s = none :=
  checkNeeds_eq_none hf (List.forall_mem_nil _) (List.forall_mem_singleton.2 h1) (List.forall_mem_nil _)
    (List.forall_mem_nil _)

include hs

/-- The point of G2 that a pairing command reads. -/
theorem isId_readPt_fp2_iff : isId (fp2 s.cfg) (readPt (fp2 s.cfg) s rs1.toNat) = true ↔
    (Spec.evPt 2 (Spec.ev2 s.cfg) (canon s) rs1.toNat).z = 0 :=
  have h := curveModel_g2 hs.1 (hasG2_of_hasPair hs.1 hf)
  isId_iff h.model (h.readPt_ok hs h1)

theorem execPrecomp_identity (hz : (Spec.evPt 2 (Spec.ev2 s.cfg) (canon s) rs1.toNat).z = 0) :
    execPrecomp b rs1 s = .next (faulted s 9) :=
  command_error (c := .identity) (checkNeeds_precomp hf h1) (if_pos ((isId_readPt_fp2_iff hs hf h1).2 hz))

theorem execPrecomp_eq (hz : (Spec.evPt 2 (Spec.ev2 s.cfg) (canon s) rs1.toNat).z ≠ 0) :
    execPrecomp b rs1 s = finish s ((precompute s.cfg (readPt (fp2 s.cfg) s rs1.toNat)).map fun B =>
      setMl (setBank s b B) .notStarted) := by
  rw [execPrecomp, command, checkNeeds_precomp hf h1]
  exact congrArg (finish s) (if_neg fun e => hz ((isId_readPt_fp2_iff hs hf h1).1 e))

end

/-! ### MILLER and MILLER2 -/

section
variable {s : State} {n : F2} {rd rs1 rs2 : CellIdx} (hs : Sound s) (hf : s.cfg.hasPair = true)
  (hn : s.cfg.f6 = .over2 n) (hd : Dest rd 12)
include hs hn hd

/-- A command that writes the Miller value of `pairs` and the phase. -/
theorem writeMiller_miller_next (pairs : List (Aff Fp × List LineRec)) {o : Out}
    (ho : o = .next (complete (writeMiller s rd (miller s.cfg pairs)))) :
    ∃ t, o = .next t ∧ MillerCells s t rd ∧ SameBanks s t ∧ Spec.ev12 s.cfg n (canon t) rd.toNat =
      Spec.miller s.cfg.loopcount s.cfg.loopneg (lineProduct s.cfg n pairs) := by
  obtain ⟨hcells, hbanks, hget⟩ := writeMiller_spec hs hd (miller_ok hs.1 pairs)
  refine ⟨_, ho, hcells, hbanks, ?_⟩
  rw [ev12_eq_el12Of, hget, el12Of_miller (fp12Model_el12Of hs.1 hn) pairs (loopcount_ne_zero hs.1)]

variable (h1 : Source s rs1 2)
include hf h1

theorem execMiller_next {b : BankIdx} (hb : bankValid s b = true) :
    ∃ t, execMiller rd rs1 b s = .next t ∧ MillerCells s t rd ∧ SameBanks s t ∧
      Spec.ev12 s.cfg n (canon t) rd.toNat = Spec.miller s.cfg.loopcount s.cfg.loopneg
        (Spec.lineAt s.cfg n (bank s b) (canon s) rs1.toNat) := by
  have h := writeMiller_miller_next hs hn hd (o := execMiller rd rs1 b s) _ <| command_ok
    (checkNeeds_eq_none hf (List.forall_mem_singleton.2 hd) (List.forall_mem_singleton.2 h1) (List.forall_mem_nil _)
      (List.forall_mem_singleton.2 hb)) rfl
  rwa [lineProduct_one] at h

theorem execMiller2_next (h2 : Source s rs2 2) (hb0 : bankValid s 0 = true) (hb1 : bankValid s 1 = true) :
    ∃ t, execMiller2 rd rs1 rs2 s = .next t ∧ MillerCells s t rd ∧ SameBanks s t ∧
      Spec.ev12 s.cfg n (canon t) rd.toNat = Spec.miller s.cfg.loopcount s.cfg.loopneg fun i =>
        Spec.lineAt s.cfg n (bank s 0) (canon s) rs1.toNat i *
          Spec.lineAt s.cfg n (bank s 1) (canon s) rs2.toNat i := by
  have h := writeMiller_miller_next hs hn hd (o := execMiller2 rd rs1 rs2 s) _ <| command_ok
    (checkNeeds_eq_none hf (List.forall_mem_singleton.2 hd)
      (List.forall_mem_cons.2 ⟨h1, List.forall_mem_singleton.2 h2⟩) (List.forall_mem_nil _)
      (List.forall_mem_cons.2 ⟨hb0, List.forall_mem_singleton.2 hb1⟩)) rfl
  rwa [lineProduct_two] at h

end

/-! ### PAIR and PAIRR -/

section
variable {s : State} {n : F2} {rd rs1 rs2 : CellIdx} (hs : Sound s) (hf : s.cfg.hasPair = true) (hd : Dest rd 12)
  (h1 : Source s rs1 3) (h2 : Source s rs2 6) (post : Config → F12 → Except FaultCode F12)

include hs h1 in
/-- The point of G1 that PAIR and PAIRR read. -/
theorem isId_readPt_fp_iff : isId (fp s.cfg) (readPt (fp s.cfg) s rs1.toNat) = true ↔
    (Spec.evPt 1 (Spec.ev1 s.cfg) (canon s) rs1.toNat).z = 0 :=
  have h := curveModel_g1 hs.1
  isId_iff h.model (h.readPt_ok hs h1)

include hf hd h1 h2

theorem checkNeeds_pair :
    checkNeeds { feature := s.cfg.hasPair, dst := [elemSpan (fp12 s.cfg) rd],
                 src := [ptSpan (fp s.cfg) rs1, ptSpan (fp2 s.cfg) rs2] } s = none :=
  checkNeeds_eq_none hf (List.forall_mem_singleton.2 hd)
    (List.forall_mem_cons.2 ⟨h1, List.forall_mem_singleton.2 h2⟩) (List.forall_mem_nil _) (List.forall_mem_nil _)

include hs

theorem pairOp_identity (hz : (Spec.evPt 1 (Spec.ev1 s.cfg) (canon s) rs1.toNat).z = 0 ∨
    (Spec.evPt 2 (Spec.ev2 s.cfg) (canon s) rs2.toNat).z = 0) :
    pairOp post rd rs1 rs2 s = .next (faulted s 9) := by
  rw [← isId_readPt_fp_iff hs h1, ← isId_readPt_fp2_iff hs hf h2, ← Bool.or_eq_true] at hz
  exact command_error (c := .identity) (checkNeeds_pair hf hd h1 h2) (if_pos hz)

variable (hP : (Spec.evPt 1 (Spec.ev1 s.cfg) (canon s) rs1.toNat).z ≠ 0)
  (hQ : (Spec.evPt 2 (Spec.ev2 s.cfg) (canon s) rs2.toNat).z ≠ 0)
include hP hQ

omit hd in
theorem not_isId_pair : ¬(isId (fp s.cfg) (readPt (fp s.cfg) s rs1.toNat) ||
    isId (fp2 s.cfg) (readPt (fp2 s.cfg) s rs2.toNat)) = true := by
  rw [Bool.or_eq_true, isId_readPt_fp_iff hs h1, isId_readPt_fp2_iff hs hf h2]
  exact not_or.2 ⟨hP, hQ⟩

theorem pairOp_error {c : FaultCode} (hpre : precompute s.cfg (readPt (fp2 s.cfg) s rs2.toNat) = .error c) :
    pairOp post rd rs1 rs2 s = .next (faulted s (faultCode c)) := by
  refine command_error (checkNeeds_pair hf hd h1 h2) ((if_neg (not_isId_pair hs hf h1 h2 hP hQ)).trans ?_)
  rw [hpre]

theorem pairOp_ok {B : Bank} (hpre : precompute s.cfg (readPt (fp2 s.cfg) s rs2.toNat) = .ok B) :
    pairOp post rd rs1 rs2 s = finish s
      ((post s.cfg (miller s.cfg [(ptToAffine (fp s.cfg) (readPt (fp s.cfg) s rs1.toNat), B.recs)])).map fun f =>
        writeMiller (setBank s 0 B) rd f) := by
  rw [pairOp, command, checkNeeds_pair hf hd h1 h2]
  refine congrArg (finish s) ((if_neg (not_isId_pair hs hf h1 h2 hP hQ)).trans ?_)
  rw [hpre]

/-- INVZERO as PRECOMP (R328). -/
theorem pairOp_of_vanishes (hv : Spec.LoopVanishes s.cfg (half2 s.cfg) (twistB2 s.cfg)
      (Spec.evPt 2 (Spec.ev2 s.cfg) (canon s) rs2.toNat)) :
    pairOp post rd rs1 rs2 s = .next (faulted s 7) :=
  pairOp_error hs hf hd h1 h2 post hP hQ <|
    precompute_of_vanishes hs.1 hf (Q := readPt (fp2 s.cfg) s rs2.toNat) hQ hv

/-- The Miller value of the affine point with the bank of the precomputation, passed through `post` (R328, R329). -/
theorem pairOp_of_not_vanishes (hn : s.cfg.f6 = .over2 n)
    (hv : ¬Spec.LoopVanishes s.cfg (half2 s.cfg) (twistB2 s.cfg)
      (Spec.evPt 2 (Spec.ev2 s.cfg) (canon s) rs2.toNat)) :
    ∃ bk px py f,
      Spec.BankOf s.cfg (half2 s.cfg) (twistB2 s.cfg) (Spec.evPt 2 (Spec.ev2 s.cfg) (canon s) rs2.toNat) bk ∧
      Spec.AffineOf s.cfg (Spec.evPt 1 (Spec.ev1 s.cfg) (canon s) rs1.toNat) px py ∧
      ok12 s.cfg f ∧ el12Of s.cfg n f = Spec.millerValue s.cfg n bk px py ∧
      pairOp post rd rs1 rs2 s = finish s ((post s.cfg f).map fun g => writeMiller (setBank s 0 bk) rd g) := by
  obtain ⟨bk, hpre, hbank⟩ := precompute_of_not_vanishes hs.1 hf (Q := readPt (fp2 s.cfg) s rs2.toNat) hQ hv
  have hT := towerFld_fp hs.1
  have haff : Spec.AffineOf s.cfg (Spec.evPt 1 (Spec.ev1 s.cfg) (canon s) rs1.toNat)
      (ptToAffine (fp s.cfg) (readPt (fp s.cfg) s rs1.toNat)).x
      (ptToAffine (fp s.cfg) (readPt (fp s.cfg) s rs1.toNat)).y :=
    mapAff_ptToAffine hT.model (hT.map_inv _ hP)
  refine ⟨bk, _, _, _, hbank, haff, miller_ok hs.1 _, ?_, pairOp_ok hs hf hd h1 h2 post hP hQ hpre⟩
  rw [el12Of_miller (fp12Model_el12Of hs.1 hn) _ (loopcount_ne_zero hs.1), lineProduct_one]
  rfl

end

/-! ## The obligations -/

/-- Settles O56: the affine point is the only one that `LoopVanishes` speaks of, and loop and formula append the same
records at each bit. -/
theorem precomputation : Obligations.Precomputation := by
  intro s b rs1 hs hf h1
  refine ⟨half2 s.cfg, twistB2 s.cfg, pairingConstants hs.1 hf, execPrecomp_identity b hs hf h1, fun hz hv => ?_,
    fun hz hv => ?_⟩
  · refine (execPrecomp_eq b hs hf h1 hz).trans ?_
    rw [precompute_of_vanishes hs.1 hf (Q := readPt (fp2 s.cfg) s rs1.toNat) hz hv]
    rfl
  · obtain ⟨bk, hpre, hbank⟩ := precompute_of_not_vanishes hs.1 hf (Q := readPt (fp2 s.cfg) s rs1.toNat) hz hv
    have hread : bank (setBank s b bk) b = bk := by rw [bank_setBank, if_pos rfl]
    have ho := execPrecomp_eq b hs hf h1 hz
    rw [hpre] at ho
    refine ⟨_, ho, onlyBank_setBank s b bk, ?_⟩
    exact hread.symm ▸ hbank

/-- Settles O58: conversion, precomputation and Miller loop as one rule; the bank is written before the cells. -/
theorem pairCommand : Obligations.PairCommand := by
  intro s n rd rs1 rs2 hs hf hn hd h1 h2
  refine ⟨half2 s.cfg, twistB2 s.cfg, pairingConstants hs.1 hf, pairOp_identity hs hf hd h1 h2 fun _ f => .ok f,
    fun hP hQ hv => ?_, fun hP hQ hv => ?_⟩
  · exact pairOp_of_vanishes hs hf hd h1 h2 (fun _ f => .ok f) hP hQ hv
  · obtain ⟨bk, px, py, f, hbank, haff, hok, hval, ho⟩ :=
      pairOp_of_not_vanishes hs hf hd h1 h2 (fun _ f => .ok f) hP hQ hn hv
    obtain ⟨hcells, hbanks, hbk, hget⟩ := writeMiller_setBank_spec hs hd hok bk
    exact ⟨_, px, py, ho, hcells, hbanks, hbk.symm ▸ hbank, haff, by rw [ev12_eq_el12Of, hget, hval, hbk]⟩

end Sys2Proof.Machine

namespace Sys2Proof

/-- Settles O57: loop and formula go through the same bits, and at each the accumulator is multiplied by the lines of
all pairs. The model's `Machine.millerLoop` has the name in the other namespace. -/
theorem millerLoop : Obligations.MillerLoop := fun _ _ _ _ _ hs _ hf hn hd h1 =>
  ⟨fun _ hb => Machine.execMiller_next hs hf hn hd h1 hb,
    fun hb0 hb1 h2 => Machine.execMiller2_next hs hf hn hd h1 h2 hb0 hb1⟩

end Sys2Proof

/-! PROOFS. The final exponentiation (47_final_exp.md): under CYC the conjugate is the inverse, so that the easy part,
the hard part and the power by `z` are powers of the operand; and PAIRR, which ends in them. -/

namespace Sys2Proof.Machine

/-! ## Conjugation is a power (R241, R350) -/

section
open Polynomial
variable {α : Type} [DecidableEq α] {p : Nat} {K : Fld α} {A : Type} [CommRing A] {φ : α → A} {ok : α → Prop}
  (h : TowerFld p K A φ ok) (hp : p.Prime) (hodd : p % 2 = 1) {N : α} (hN : ok N)
  (hnot : notPower K (p ^ K.arity) 2 N = true)
include h hp hodd hN hnot

/-- Euler's criterion: the non-square of an extension to half the order of its field is -1. -/
theorem TowerFld.pow_half_eq_neg_one : φ N ^ ((p ^ K.arity - 1) / 2) = -1 := by
  have := h.field.isField.isDomain
  have hne : φ N ^ ((p ^ K.arity - 1) / 2) ≠ 1 := by
    simp only [notPower, Bool.and_eq_true, bne_iff_ne, Ne, h.model.eq_iff (h.model.pow_ok _ _) h.model.one_ok,
      h.model.map_pow, h.model.map_one] at hnot
    exact hnot.2
  have h0 : φ N ≠ 0 := fun h0 =>
    h.ne_pow_of_notPower hp one_lt_two hodd rfl hN hnot 0 (by rw [h0, zero_pow two_ne_zero])
  have hsq : (φ N ^ ((p ^ K.arity - 1) / 2)) ^ 2 = 1 := by
    rw [← pow_mul, Nat.div_mul_cancel (dvd_pow_pred one_lt_two hodd _), h.field.pow_card_pred hp h0]
  exact (mul_self_eq_one_iff.1 ((pow_two _).symm.trans hsq)).resolve_left hne

/-- Conjugation over a field of `q` elements is the power by `q`. -/
theorem TowerFld.quadMap_conjQuad (a : Quad α) :
    quadMap φ (φ N) (conjQuad K a) = quadMap φ (φ N) a ^ p ^ K.arity := by
  have hfield := h.field.adjoinRoot Nat.prime_two (h.ne_pow_of_notPower hp one_lt_two hodd rfl hN hnot)
  have hroot : AdjoinRoot.root (X ^ 2 - C (φ N)) ^ p ^ K.arity = -AdjoinRoot.root (X ^ 2 - C (φ N)) := by
    rw [root_pow_of_dvd_pred _ (Nat.one_le_pow _ _ hp.pos) (dvd_pow_pred one_lt_two hodd _),
      h.pow_half_eq_neg_one hp hodd hN hnot, map_neg, map_one, neg_one_mul]
  simp only [quadMap, conjQuad, h.model.map_neg, map_neg]
  rw [hfield.add_pow_prime_pow hp, mul_pow, hroot, ← map_pow, ← map_pow, h.field.pow_card hp, h.field.pow_card hp,
    neg_mul, mul_neg]

end

/-! ## The orders of the groups (R350, R352) -/

/-- Why the conjugate is the inverse under CYC. -/
theorem succ_sq_mul_phi12 (c : Config) : (c.p ^ 2 + 1) * Spec.phi12 c = c.p ^ 6 + 1 := by
  have hle : c.p ^ 2 ≤ c.p ^ 4 := by
    rcases Nat.eq_zero_or_pos c.p with h0 | hpos
    · simp [h0]
    · exact Nat.pow_le_pow_right hpos (by decide)
  unfold Spec.phi12
  zify [hle]
  ring

/-- Why the easy part satisfies CYC. -/
theorem easy_exponent_mul_phi12 {c : Config} (hp : 0 < c.p) :
    (c.p ^ 6 - 1) * (c.p ^ 2 + 1) * Spec.phi12 c = c.p ^ 12 - 1 := by
  rw [mul_assoc, succ_sq_mul_phi12]
  zify [Nat.one_le_pow 6 _ hp, Nat.one_le_pow 12 _ hp]
  ring

section
variable {c : Config} {n : F2} (h : c.WF) (hf : c.f6 = .over2 n) (h12 : c.hasFp12 = true)
include h hf h12

theorem el12Of_conj12 (a : F12) : el12Of c n (conj12 c a) = el12Of c n a ^ c.p ^ 6 := by
  have hn : nr6Over2 c = n := by simp [nr6Over2, hf]
  have hnot := (upper_tower_facts h).2.2 h12
  rw [conj12, hn]
  rw [hn] at hnot
  exact (towerFld_fp6Over2 h hf).quadMap_conjQuad h.1 (modulus_facts h.2).1 (nr12_ok h) hnot a

/-! ## The easy part (R352) -/

theorem el12Of_easyPart {a : F12} (ha : el12Of c n a ≠ 0) :
    el12Of c n (easyPart c a) = el12Of c n a ^ ((c.p ^ 6 - 1) * (c.p ^ 2 + 1)) := by
  have hT := towerFld_fp12 h hf h12
  have hq : el12Of c n ((fp12 c).mul (conj12 c a) ((fp12 c).inv a)) = el12Of c n a ^ (c.p ^ 6 - 1) := by
    rw [hT.model.map_mul, el12Of_conj12 h hf h12, ← pow_sub_one_mul (pow_ne_zero 6 h.1.ne_zero), mul_assoc,
      hT.map_inv a ha, mul_one]
  simp only [easyPart]
  rw [hT.model.map_mul, hT.map_frob, hq, ← pow_succ, ← pow_mul]

theorem cyc_easyPart {a : F12} (ha : el12Of c n a ≠ 0) : Spec.Cyc c n (el12Of c n (easyPart c a)) := by
  have hfield := (towerFld_fp12 h hf h12).field
  have := hfield.isField.isDomain
  rw [el12Of_easyPart h hf h12 ha]
  refine ⟨pow_ne_zero _ ha, ?_⟩
  rw [← pow_mul, easy_exponent_mul_phi12 h.1.pos]
  exact hfield.pow_card_pred h.1 ha

end

/-! ## The hard part (R353 to R355)

An element that satisfies CYC is a unit, and the slots of the chain hold its powers with the exponents of R355, negative
ones too. -/

section
variable {A : Type} [CommRing A] {u : Aˣ}

theorem val_zpow_mul_val_zpow (j k : Int) : ((u ^ j : Aˣ) : A) * ((u ^ k : Aˣ) : A) = ((u ^ (j + k) : Aˣ) : A) := by
  rw [zpow_add, Units.val_mul]

theorem val_zpow_pow (k : Int) (e : Nat) : ((u ^ k : Aˣ) : A) ^ e = ((u ^ ((e : Int) * k) : Aˣ) : A) := by
  rw [mul_comm, zpow_mul, zpow_natCast, Units.val_pow_eq_pow_val]

/-- What the order of `u` divides does not matter. -/
theorem val_zpow_congr {m : Nat} (hu : u ^ m = 1) {j k : Int} (hjk : j ≡ k [ZMOD m]) :
    ((u ^ j : Aˣ) : A) = ((u ^ k : Aˣ) : A) := by
  rw [zpow_eq_zpow_iff_modEq.2 (hjk.of_dvd (Int.natCast_dvd_natCast.2 (orderOf_dvd_of_pow_eq_one hu)))]

end

theorem slotGet_cons (t : Slots) (d s : Slot) (v : F12) :
    slotGet ((d, v) :: t) s = if s = d then v else slotGet t s := by
  unfold slotGet
  rw [List.lookup_cons]
  by_cases hs : s = d
  · simp [hs]
  · simp [hs, beq_eq_false_iff_ne.2 hs]

/-- The canonical element `a` is the power `u^k`. -/
structure IsPower (c : Config) (n : F2) (u : (Spec.A12 c n)ˣ) (a : F12) (k : Int) : Prop where
  ok : ok12 c a
  val : el12Of c n a = ((u ^ k : (Spec.A12 c n)ˣ) : Spec.A12 c n)

/-- What is in the slots `written` is the power with the exponent of the slot. -/
def SlotsHold (c : Config) (n : F2) (u : (Spec.A12 c n)ˣ) (X : Slot → Int) (t : Slots)
    (written : List Slot) : Prop :=
  ∀ s ∈ written, IsPower c n u (slotGet t s) (X s)

section
variable {c : Config} {n : F2} {u : (Spec.A12 c n)ˣ}

theorem SlotsHold.cons {X : Slot → Int} {t : Slots} {written : List Slot} {d : Slot} {v : F12}
    {k : Int} (hold : SlotsHold c n u X t written) (hv : IsPower c n u v k) :
    SlotsHold c n u (Function.update X d k) ((d, v) :: t) (d :: written) := by
  intro s hs
  rw [slotGet_cons]
  by_cases hd : s = d
  · rwa [if_pos hd, hd, Function.update_self]
  · rw [if_neg hd, Function.update_of_ne hd]
    exact hold s ((List.mem_cons.1 hs).resolve_left hd)

variable (h : c.WF) (hf : c.f6 = .over2 n) (h12 : c.hasFp12 = true) (hu : u ^ Spec.phi12 c = 1) {a b : F12} {j k : Int}
include h hf

theorem IsPower.mul (ha : IsPower c n u a j) (hb : IsPower c n u b k) : IsPower c n u ((fp12 c).mul a b) (j + k) := by
  have hm := fp12Model_el12Of h hf
  refine ⟨hm.mul_ok _ _, ?_⟩
  rw [hm.map_mul, ha.val, hb.val]
  exact val_zpow_mul_val_zpow j k

include h12

theorem IsPower.frob (ha : IsPower c n u a k) (i : Nat) :
    IsPower c n u ((fp12 c).frob i a) ((c.p : Int) ^ i * k) := by
  refine ⟨(cellFld_fp12 h).frob_ok i a ha.ok, ?_⟩
  rw [(towerFld_fp12 h hf h12).map_frob, ha.val, ← Nat.cast_pow]
  exact val_zpow_pow k _

include hu

/-- A power of a cyclotomic unit satisfies CYC. -/
theorem IsPower.cyc (ha : IsPower c n u a k) : Spec.Cyc c n (el12Of c n a) := by
  have := (towerFld_fp12 h hf h12).field.isField.nontrivial
  rw [ha.val]
  have hmod : (Spec.phi12 c : Int) * k ≡ 0 [ZMOD Spec.phi12 c] := Int.modEq_zero_iff_dvd.2 (Dvd.intro _ rfl)
  refine ⟨(u ^ k).ne_zero, (val_zpow_pow k _).trans ?_⟩
  exact (val_zpow_congr hu hmod).trans (congrArg Units.val (zpow_zero u))

theorem IsPower.cycSqr (ha : IsPower c n u a k) : IsPower c n u (cycSqr c a) (2 * k) := by
  rw [cycSqr_eq_sqr h hf ha.ok (ha.cyc h hf h12 hu), two_mul]
  exact ha.mul h hf ha

/-- The conjugate is the inverse, as `p^4 - p^2 + 1` divides `p^6 + 1`. -/
theorem IsPower.conj12 (ha : IsPower c n u a k) : IsPower c n u (conj12 c a) (-k) := by
  refine ⟨conj12_ok h ha.ok, ?_⟩
  rw [el12Of_conj12 h hf h12, ha.val]
  have hmod : ((c.p ^ 6 : Nat) : Int) * k ≡ -k [ZMOD Spec.phi12 c] := by
    have hphi : ((c.p : Int) ^ 2 + 1) * Spec.phi12 c = (c.p : Int) ^ 6 + 1 := mod_cast succ_sq_mul_phi12 c
    refine Int.modEq_iff_dvd.2 ⟨-((c.p : Int) ^ 2 + 1) * k, ?_⟩
    push_cast
    linear_combination k * hphi
  exact (val_zpow_pow k _).trans (val_zpow_congr hu hmod)

theorem IsPower.expZ (ha : IsPower c n u a k) : IsPower c n u (expZ c a) (Spec.zParam c * k) := by
  have hpow : IsPower c n u (cycExp c a c.zabs) (c.zabs * k) := by
    refine ⟨cycExp_ok h ha.ok _, ?_⟩
    rw [el12Of_cycExp h hf ha.ok (.inl (ha.cyc h hf h12 hu)), ha.val]
    exact val_zpow_pow k _
  unfold Machine.expZ Spec.zParam
  cases c.zneg with
  | false => exact hpow
  | true =>
    have hneg := hpow.conj12 h hf h12 hu
    rwa [← neg_mul] at hneg

/-- One step of the chain (R354, R355). -/
theorem SlotsHold.chainStep {X : Slot → Int} {t : Slots} {written : List Slot} (hold : SlotsHold c n u X t written)
    (st : ChainStep) (hreads : ∀ s ∈ stepReads st, s ∈ written) :
    SlotsHold c n u (Spec.stepExponent c X st) (chainStep c t st) (stepWrites st :: written) := by
  have hread (s : Slot) (hs : s ∈ stepReads st) := hold s (hreads s hs)
  cases st with
  | csq d s => exact hold.cons ((hread s (.head _)).cycSqr h hf h12 hu)
  | mul d s1 s2 => exact hold.cons ((hread s1 (.head _)).mul h hf (hread s2 (.tail _ (.head _))))
  | frb d s i => exact hold.cons ((hread s (.head _)).frob h hf h12 i.val)
  | uin d s => exact hold.cons ((hread s (.head _)).conj12 h hf h12 hu)
  | exz d s => exact hold.cons ((hread s (.head _)).expZ h hf h12 hu)

/-- The whole chain: what it writes last is the power with the exponent of its output (R355, R356). -/
theorem SlotsHold.chain {out : Slot} {X : Slot → Int} {t : Slots} {written : List Slot} {l : List ChainStep}
    (hold : SlotsHold c n u X t written) (hok : chainReadsOk out l written = true) :
    IsPower c n u (slotGet (l.foldl (Machine.chainStep c) t) out) (l.foldl (Spec.stepExponent c) X out) := by
  induction l generalizing X t written with
  | nil => exact hold out (List.contains_iff_mem.1 hok)
  | cons st l ih =>
    rw [chainReadsOk, Bool.and_eq_true, List.all_eq_true] at hok
    obtain ⟨hreads, hrest⟩ := hok
    exact ih (hold.chainStep h hf h12 hu st fun s hs => List.contains_iff_mem.1 (hreads s hs)) hrest

/-- The hard part (R355). -/
theorem IsPower.hardPart (ha : IsPower c n u a 1) : IsPower c n u (hardPart c a) (Spec.chainExponent c) := by
  have hold : SlotsHold c n u (fun i => if i = 0 then 1 else 0) [(0, a)] [0] :=
    List.forall_mem_singleton.2 ha
  exact hold.chain h hf h12 hu (chainReadsOk_of_wf h)

omit hu

theorem el12Of_hardPart (ha : ok12 c a) (hcyc : Spec.Cyc c n (el12Of c n a)) {m : Nat} (hm : Spec.IsChainExponent c m) :
    el12Of c n (hardPart c a) = el12Of c n a ^ m := by
  have hphi : Spec.phi12 c ≠ 0 := Nat.succ_ne_zero _
  obtain ⟨-, hone⟩ := hcyc
  let u : (Spec.A12 c n)ˣ := Units.ofPowEqOne _ _ hone hphi
  have hu : u ^ Spec.phi12 c = 1 := Units.pow_ofPowEqOne _ _
  have hpow : IsPower c n u a 1 := ⟨ha, congrArg Units.val (zpow_one u).symm⟩
  have hmod : (m : Int) * 1 ≡ Spec.chainExponent c [ZMOD Spec.phi12 c] := (mul_one (m : Int)).symm ▸ hm
  rw [(hpow.hardPart h hf h12 hu).val, hpow.val]
  exact ((val_zpow_pow 1 m).trans (val_zpow_congr hu hmod)).symm

/-! ## The final exponentiation (R361) -/

theorem el12Of_finalExp (ha : el12Of c n a ≠ 0) {m : Nat} (hm : Spec.IsChainExponent c m) :
    el12Of c n (finalExp c a) = el12Of c n a ^ ((c.p ^ 6 - 1) * (c.p ^ 2 + 1) * m) := by
  rw [finalExp, el12Of_hardPart h hf h12 (easyPart_ok h a) (cyc_easyPart h hf h12 ha) hm,
    el12Of_easyPart h hf h12 ha, ← pow_mul]

end

section
variable {c : Config} (g : F12 → F12) {a : F12}

theorem orInvZero_of_zero (h0 : a = (fp12 c).zero) : orInvZero c g a = .error .invzero := if_pos h0

theorem orInvZero_of_ne (h0 : a ≠ (fp12 c).zero) : orInvZero c g a = .ok (g a) := if_neg h0

end

/-! ## The obligation -/

/-- Settles O59: PAIR with the final exponentiation, whose easy part makes any nonzero value cyclotomic, so that the
hard part is the power by the exponent of the chain. -/
theorem reducedPairCommand : Obligations.ReducedPairCommand := by
  intro s n rd rs1 rs2 hs hf hn hd h1 h2
  refine ⟨half2 s.cfg, twistB2 s.cfg, pairingConstants hs.1 hf,
    pairOp_identity hs hf hd h1 h2 fun c f => orInvZero c (finalExp c) f,
    fun hP hQ hv => ?_, fun hP hQ hv => ?_⟩
  · exact pairOp_of_vanishes hs hf hd h1 h2 (fun c f => orInvZero c (finalExp c) f) hP hQ hv
  · obtain ⟨bk, px, py, f, hbank, haff, hok, hval, ho⟩ :=
      pairOp_of_not_vanishes hs hf hd h1 h2 (fun c f => orInvZero c (finalExp c) f) hP hQ hn hv
    have hzero := (fp12Model_el12Of hs.1 hn).eq_zero_iff hok
    refine ⟨bk, px, py, hbank, haff, ?_⟩
    rw [← hval]
    refine ⟨fun h0 => ?_, fun hne => ?_⟩
    · rw [orInvZero_of_zero _ (hzero.2 h0)] at ho
      exact ho
    · rw [orInvZero_of_ne _ fun e => hne (hzero.1 e)] at ho
      obtain ⟨hcells, hbanks, hbk, hget⟩ := writeMiller_setBank_spec hs hd (finalExp_ok hs.1 f) bk
      refine ⟨_, ho, hcells, hbanks, hbk, fun m hm => ?_⟩
      rw [ev12_eq_el12Of, hget]
      exact el12Of_finalExp hs.1 hn (hasFp12_of_hasPair hs.1 hf) hne hm

end Sys2Proof.Machine

/-! PROOFS. The commands of the final exponentiation (47_final_exp.md): the powers that FEXPE, FEXPH, FEXP and EXPZ
write, and that off the cyclotomic subgroup too the commands write a function of their operands. -/

namespace Sys2Proof.Machine

/-! ## The power by `z` (R353) -/

section
variable {c : Config} {n : F2} {a b : F12} (ha : ok12 c a) (hcyc : Spec.Cyc c n (el12Of c n a))
include ha hcyc

/-- What is a power `u^k` of every cyclotomic unit `u` that `a` may be is the power of `a` by any `m` that is `k` modulo
`p^4 - p^2 + 1`. -/
theorem el12Of_eq_pow_of_isPower {k : Int}
    (hb : ∀ u : (Spec.A12 c n)ˣ, u ^ Spec.phi12 c = 1 → IsPower c n u a 1 → IsPower c n u b k) {m : Nat}
    (hm : (m : Int) ≡ k [ZMOD (Spec.phi12 c : Int)]) : el12Of c n b = el12Of c n a ^ m := by
  have hphi : Spec.phi12 c ≠ 0 := Nat.succ_ne_zero _
  obtain ⟨-, hone⟩ := hcyc
  let u : (Spec.A12 c n)ˣ := Units.ofPowEqOne _ _ hone hphi
  have hu : u ^ Spec.phi12 c = 1 := Units.pow_ofPowEqOne _ _
  have hval : el12Of c n a = u := (Units.val_ofPowEqOne _ _ hone hphi).symm
  have hpow : IsPower c n u a 1 := ⟨ha, by rw [hval, zpow_one]⟩
  rw [(hb u hu hpow).val, hval, ← val_zpow_congr hu hm, zpow_natCast, Units.val_pow_eq_pow_val]

theorem el12Of_expZ (h : c.WF) (hf : c.f6 = .over2 n) (h12 : c.hasFp12 = true) {m : Nat}
    (hm : (m : Int) ≡ Spec.zParam c [ZMOD (Spec.phi12 c : Int)]) : el12Of c n (expZ c a) = el12Of c n a ^ m :=
  el12Of_eq_pow_of_isPower ha hcyc (fun _ hu hpow => mul_one (Spec.zParam c) ▸ hpow.expZ h hf h12 hu) hm

end

/-! ## What the four commands do (R357 to R360) -/

section
variable {s : State} {n : F2} {rd rs1 : CellIdx} {op : F12 → Except FaultCode F12} {b : F12} (hs : Sound s)
  (hf : s.cfg.hasPair = true) (hd : Dest rd 12) (h1 : Source s rs1 12)
include hs hf hd h1

/-- A command of the pairing engine on one element of Fp12 writes what its value rule answers. -/
theorem fp12Op_next (hop : op (readElem (fp12 s.cfg) s rs1.toNat) = .ok b) (hb : ok12 s.cfg b) :
    ∃ t, elemOp1? s.cfg.hasPair (fp12 s.cfg) op rd rs1 s = .next t ∧ OnlyCells s t rd 12 ∧
      Spec.ev12 s.cfg n (canon t) rd.toNat = el12Of s.cfg n b := by
  rw [hf]
  exact elemOp1?_next hs (cellFld_fp12 hs.1) (cellLayout_fp12 _) (fun v b => ev12_eq_el12Of s.cfg v b n) hop hb hd h1

omit hs in
/-- INVZERO when every cell of the operand is zero (R357, R359). -/
theorem orInvZero_faults (g : F12 → F12) (h0 : ∀ i < 12, canon s (rs1.toNat + i) = 0) :
    elemOp1? s.cfg.hasPair (fp12 s.cfg) (orInvZero s.cfg g) rd rs1 s = .next (faulted s 7) := by
  have hzero := ((cellLayout_fp12 s.cfg).get_eq_zero_iff (canon s) rs1.toNat).2 h0
  rw [hf]
  exact elemOp1?_error (c := .invzero) hd h1 (orInvZero_of_zero g hzero)

/-- Otherwise its value rule is `g`. -/
theorem orInvZero_next {g : F12 → F12} (hg : ∀ a, ok12 s.cfg (g a))
    (h0 : ∃ i < 12, canon s (rs1.toNat + i) ≠ 0) :
    ∃ t, elemOp1? s.cfg.hasPair (fp12 s.cfg) (orInvZero s.cfg g) rd rs1 s = .next t ∧ OnlyCells s t rd 12 ∧
      Spec.ev12 s.cfg n (canon t) rd.toNat = el12Of s.cfg n (g (readElem (fp12 s.cfg) s rs1.toNat)) := by
  obtain ⟨i, hi, hne⟩ := h0
  have hzero := (cellLayout_fp12 s.cfg).get_eq_zero_iff (canon s) rs1.toNat
  exact fp12Op_next hs hf hd h1 (orInvZero_of_ne g fun e => hne (hzero.1 e i hi)) (hg _)

end

/-! ## The operand determines the result (R351, U2) -/

section
variable {α : Type} {K : Fld α} {n : Nat} (hL : CellLayout K n) {s s1 s2 t1 t2 : State} {rd rs1 : CellIdx}
include hL

/-- The canonical values of a written element are those of what represents its coordinates. -/
theorem canon_writeElem (a : α) (hd : Dest rd n) {j : Nat} (hj : j < n) :
    canon (writeElem K s rd.toNat a) (rd.toNat + j) = val s.cfg (rep s.cfg ((K.put a).getD j 0)) := by
  have hlen := hL.put_length a
  have hfit : rd.toNat + (K.put a).length ≤ 128 := by rwa [hlen]
  rw [canon, writeElem, setValues_cfg, rawCell_setValues _ _ _ hfit, if_pos (by omega), Nat.add_sub_cancel_left]

theorem canon_eq_of_writeElem {o1 o2 : Out} (hcfg : s1.cfg = s2.cfg) (hd : Dest rd n) {a1 a2 : α} (ha : a1 = a2)
    (ho1 : o1 = .next (complete (writeElem K s1 rd.toNat a1)))
    (ho2 : o2 = .next (complete (writeElem K s2 rd.toNat a2))) (ht1 : o1 = .next t1) (ht2 : o2 = .next t2) :
    ∀ j < n, canon t1 (rd.toNat + j) = canon t2 (rd.toNat + j) := by
  intro j hj
  cases ht1.symm.trans ho1
  cases ht2.symm.trans ho2
  rw [canon_complete, canon_complete, canon_writeElem hL _ hd hj, canon_writeElem hL _ hd hj, hcfg, ha]

end

section
variable {s1 s2 t1 t2 : State} {rd rs1 : CellIdx} {present : Config → Bool} (hcfg : s1.cfg = s2.cfg)
  (hf : present s1.cfg = true) (hd : Dest rd 12) (h1 : Source s1 rs1 12) (h2 : Source s2 rs1 12)
  (hsame : ∀ i < 12, canon s1 (rs1.toNat + i) = canon s2 (rs1.toNat + i))
include hcfg hf hd h1 h2 hsame

/-- A command of one element of Fp12 writes the same into two states that agree on the element. -/
theorem fp12Op_deterministic {op : Config → F12 → F12}
    (ht1 : elemOp1 (present s1.cfg) (fp12 s1.cfg) (op s1.cfg) rd rs1 s1 = .next t1)
    (ht2 : elemOp1 (present s2.cfg) (fp12 s2.cfg) (op s2.cfg) rd rs1 s2 = .next t2) :
    ∀ j < 12, canon t1 (rd.toNat + j) = canon t2 (rd.toNat + j) := by
  have hL := cellLayout_fp12 s1.cfg
  have hread := (hL.get_eq_iff _ _ _ _).2 hsame
  rw [hf] at ht1
  rw [← hcfg, hf] at ht2
  exact canon_eq_of_writeElem hL hcfg hd (congrArg (op s1.cfg) hread) (elemOp1_eq hd h1) (elemOp1_eq hd h2) ht1 ht2

/-- So does a command of one element and an integer register, when they agree on both. -/
theorem fp12OpK_deterministic {op : Config → F12 → Nat → F12} {k : KIdx} (hk : kReg s1 k = kReg s2 k)
    (hk1 : kValid s1 k = true) (hk2 : kValid s2 k = true)
    (ht1 : elemOpK (present s1.cfg) (fp12 s1.cfg) (op s1.cfg) rd rs1 k s1 = .next t1)
    (ht2 : elemOpK (present s2.cfg) (fp12 s2.cfg) (op s2.cfg) rd rs1 k s2 = .next t2) :
    ∀ j < 12, canon t1 (rd.toNat + j) = canon t2 (rd.toNat + j) := by
  have hL := cellLayout_fp12 s1.cfg
  have hread := (hL.get_eq_iff _ _ _ _).2 hsame
  rw [hf] at ht1
  rw [← hcfg, hf] at ht2
  exact canon_eq_of_writeElem hL hcfg hd (congrArg₂ (op s1.cfg) hread hk) (elemOpK_eq hd h1 hk1)
    (elemOpK_eq hd h2 hk2) ht1 ht2

end

/-! ## The obligations -/

/-- Settles O60: the operand is zero exactly when its cells are; else each value rule is the power that its exponent
says, the hard part and EXPZ on the subgroup, where the exponent counts modulo `p^4 - p^2 + 1`. -/
theorem finalExponentiation : Obligations.FinalExponentiation := by
  intro s n rd rs1 hs hf hn hd h1 a
  have hval : a = el12Of s.cfg n (readElem (fp12 s.cfg) s rs1.toNat) := rfl
  clear_value a
  subst hval
  have h12 := hasFp12_of_hasPair hs.1 hf
  have hread := readElem_base_ok (cellFld_fp12 hs.1) hs h1
  have hzero := (fp12Model_el12Of hs.1 hn).eq_zero_iff hread
  refine ⟨fun h0 => ⟨orInvZero_faults hf hd h1 _ h0, orInvZero_faults hf hd h1 _ h0⟩, fun h0 => ?_, ?_, ?_⟩
  · have ha : el12Of s.cfg n (readElem (fp12 s.cfg) s rs1.toNat) ≠ 0 := fun e => by
      obtain ⟨i, hi, hne⟩ := h0
      exact hne (((cellLayout_fp12 s.cfg).get_eq_zero_iff (canon s) rs1.toNat).1 (hzero.2 e) i hi)
    obtain ⟨te, hte, htecells, hteval⟩ := orInvZero_next (n := n) hs hf hd h1 (easyPart_ok hs.1) h0
    obtain ⟨tf, htf, htfcells, htfval⟩ := orInvZero_next (n := n) hs hf hd h1 (finalExp_ok hs.1) h0
    exact ⟨⟨te, hte, htecells, hteval.trans (el12Of_easyPart hs.1 hn h12 ha)⟩,
      tf, htf, htfcells, fun m hm => htfval.trans (el12Of_finalExp hs.1 hn h12 ha hm)⟩
  · obtain ⟨t, ht, hcells, hval⟩ := fp12Op_next (n := n) (op := fun a => .ok (hardPart s.cfg a)) hs hf hd h1 rfl
      (hardPart_ok hs.1 hread)
    exact ⟨t, ht, hcells, fun hcyc m hm => hval.trans (el12Of_hardPart hs.1 hn h12 hread hcyc hm)⟩
  · obtain ⟨t, ht, hcells, hval⟩ := fp12Op_next (n := n) (op := fun a => .ok (expZ s.cfg a)) hs hf hd h1 rfl
      (expZ_ok hs.1 hread)
    exact ⟨t, ht, hcells, fun hcyc m hm => hval.trans (el12Of_expZ hread hcyc hs.1 hn h12 hm)⟩

/-- Settles O46: the value rule of each command takes the operand, the exponent and the configuration and nothing
else, `CSQR_OFF` included. -/
theorem cyclotomicDeterminism : Obligations.CyclotomicDeterminism := by
  intro s1 s2 t1 t2 rd rs1 k _ hcfg hd h1 h2 hsame hk hk1 hk2
  simp only [List.forall_mem_cons]
  refine ⟨fun ht1 ht2 hf => ?_, fun ht1 ht2 hf => ?_, fun ht1 ht2 hf => ?_, fun ht1 ht2 hf => ?_,
    List.forall_mem_nil _⟩
  · exact fp12Op_deterministic (present := Config.hasFp12) (op := cycSqr) hcfg hf hd h1 h2 hsame ht1 ht2
  · exact fp12OpK_deterministic (present := Config.hasFp12) (op := cycExp) hcfg hf hd h1 h2 hsame hk hk1 hk2 ht1 ht2
  · exact fp12Op_deterministic (present := Config.hasPair) (op := expZ) hcfg hf hd h1 h2 hsame ht1 ht2
  · exact fp12Op_deterministic (present := Config.hasPair) (op := hardPart) hcfg hf hd h1 h2 hsame ht1 ht2

end Sys2Proof.Machine

/-! PROOFS. Exceptions (60_exceptions.md): what the port can do to a core in the fault state, and the worked fault
priorities. -/

namespace Sys2Proof.Machine

/-! ## The fault state (R386, R387) -/

/-- `t` differs from `s` at most in CTRL, DONE, HOSTERR, XMEM, the word on the port and what is still to come. -/
def OnlyPort (s t : State) : Prop :=
  t = { s with ctrl := t.ctrl, done := t.done, hosterr := t.hosterr, xmem := t.xmem, hrdata := t.hrdata,
               inputs := t.inputs }

theorem onlyPort_ignoredWrite (s : State) : OnlyPort s (ignoredWrite s) := rfl

/-- A host write to an idle core in the fault state accepts no command, and resets nothing but by bit 31 of CTRL. -/
theorem onlyPort_hostWrite {s : State} (hb : s.busy = false) (hf : s.fault = true) {a : BitVec 11} {w : Word}
    (hw : a = 2 → w.getLsbD 31 = false) : OnlyPort s (hostWrite s a w) := by
  by_cases hwin : 1024 ≤ a.toNat
  · rw [hostWrite_window s hwin, writeWindow, if_neg (by simp [hb])]
    rfl
  by_cases hres : 7 ≤ a.toNat
  · rw [hostWrite_reserved hres (by omega)]
    rfl
  have hreg : a = 2 ∨ a = 3 ∨ a = 4 ∨ a ∈ ([0, 1, 5, 6] : List (BitVec 11)) := by
    simp only [List.mem_cons, List.not_mem_nil, or_false]
    bv_omega
  obtain rfl | rfl | rfl | hro := hreg
  · rw [hostWrite_ctrl_idle hb (hw rfl)]
    rfl
  · rw [hostWrite_status_idle hb]
    rfl
  · rw [hostWrite_cmd_ignored (.inr hf)]
    exact onlyPort_ignoredWrite s
  · rw [hostWrite_readOnly_idle hb hro]
    rfl

/-- Whatever is next but a reset, a core in the fault state changes at most what the port can reach. -/
theorem onlyPort_step {s t : State} (hb : s.busy = false) (hf : s.fault = true) (hstep : step s = .next t)
    (hhard : ∀ cells es, s.inputs ≠ .hardReset cells :: es)
    (hsoft : ∀ w es, s.inputs = .hostWrite 2 w :: es → w.getLsbD 31 = false) : OnlyPort s t := by
  have hcheck : s.cfg.wfCheck = true := by
    by_contra hc
    cases (step_refused hc).symm.trans hstep
  have answers {u : State} (hu : step s = .next u) (h : OnlyPort s u) : OnlyPort s t := by
    cases hu.symm.trans hstep
    exact h
  cases hin : s.inputs with
  | nil => exact answers ((step_of_no_inputs hcheck hin).trans (sequence_idle hb)) rfl
  | cons e es =>
    cases e with
    | sequencer => exact answers ((step_of_inputs hcheck hin).trans (sequence_idle hb)) rfl
    | hostRead a => exact answers (step_hostRead hcheck hin) rfl
    | hostWrite a w =>
      have h := onlyPort_hostWrite (s := { s with inputs := es }) hb hf (a := a) (w := w)
        fun ha => hsoft w es (ha ▸ hin)
      exact answers (step_hostWrite hcheck hin) (by rw [OnlyPort, h])
    | hardReset cells => exact absurd hin (hhard cells es)

/-- Settles O21: with the invariant a core in the fault state is idle, and then only the port acts on it, which reaches
none of the fields that are claimed. -/
theorem faultIsSticky : Obligations.FaultIsSticky := by
  intro s t hinv hf hstep hhard hsoft
  obtain ⟨-, -, -, ⟨hrec, -⟩, -⟩ := hinv
  obtain ⟨-, -, hb⟩ := hrec hf
  have h := onlyPort_step hb hf hstep hhard hsoft
  rw [h]
  exact ⟨hf, rfl, rfl, hb, fun _ _ => ⟨rfl, rfl⟩, fun _ => ⟨rfl, rfl⟩, fun _ => ⟨rfl, rfl⟩⟩

/-! ## Worked fault priorities (R372) -/

theorem cellValid_resetOf (c : Config) (i : Nat) : cellValid (State.resetOf c) i = false := by
  rw [cellValid, State.resetOf, Vector.getElem?_replicate]
  split <;> rfl

/-- The state in which the word `w` was accepted straight after reset. -/
def acceptedAtReset (c : Config) (w : Nat) : State := accept (State.resetOf c) (BitVec.ofNat 32 (w % 2 ^ 32))

/-- The word `w`, as the first command after reset, raises the code `code`. -/
def RaisesAtReset (c : Config) (w : Nat) (code : BitVec 4) : Prop :=
  (nextOf (step ((State.resetOf c).withFetchWord 32 w))).map (fun t => (t.fault, t.fcode)) = some (true, code)

section
variable {c : Config} (hcheck : c.wfCheck = true) {w : Nat}
include hcheck

theorem step_withFetchWord_resetOf :
    step ((State.resetOf c).withFetchWord 32 w) = sequence (acceptedAtReset c w) :=
  step_of_no_inputs (s := (State.resetOf c).withFetchWord 32 w) hcheck rfl

theorem raisesAtReset_of_sequence {code : BitVec 4}
    (h : sequence (acceptedAtReset c w) = .next (faulted (acceptedAtReset c w) code)) : RaisesAtReset c w code := by
  rw [RaisesAtReset, step_withFetchWord_resetOf hcheck, h]
  rfl

theorem raisesAtReset_illegal {e : DecodeError} (hd : decode (BitVec.ofNat 32 (w % 2 ^ 32)) = .error e) :
    RaisesAtReset c w 1 :=
  raisesAtReset_of_sequence hcheck (sequence_illegal rfl fun _ hi => nomatch hd.symm.trans hi)

variable {i : Instr} (hd : decode (BitVec.ofNat 32 (w % 2 ^ 32)) = .ok i)
include hd

theorem raisesAtReset_exec {code : BitVec 4}
    (h : exec i (acceptedAtReset c w) = .next (faulted (acceptedAtReset c w) code)) : RaisesAtReset c w code :=
  raisesAtReset_of_sequence hcheck ((sequence_busy (s := acceptedAtReset c w) rfl hd).trans h)

theorem raisesAtReset_unsupp (h : Spec.present c i = false) : RaisesAtReset c w 2 := by
  obtain ⟨hunsupp, -⟩ := checkOrder (acceptedAtReset c w) i
  exact raisesAtReset_exec hcheck hd (hunsupp h)

theorem raisesAtReset_regrange (hp : Spec.present c i = true) (h : ¬Spec.SpansFit i) : RaisesAtReset c w 3 := by
  obtain ⟨-, hregrange, -⟩ := checkOrder (acceptedAtReset c w) i
  exact raisesAtReset_exec hcheck hd (hregrange hp h)

/-- No cell is valid after reset. -/
theorem raisesAtReset_uninit (hp : Spec.present c i = true) (hfit : Spec.SpansFit i) {sp : CellIdx × Nat}
    (hsp : sp ∈ (Spec.operands i).reads) (hpos : 0 < sp.2) : RaisesAtReset c w 4 := by
  obtain ⟨-, -, huninit⟩ := checkOrder (acceptedAtReset c w) i
  refine raisesAtReset_exec hcheck hd (huninit hp hfit fun ⟨hcells, _⟩ => ?_)
  exact Bool.false_ne_true ((cellValid_resetOf c _).symm.trans (hcells sp hsp 0 hpos))

end

theorem toyBN_wfCheck : toyBN.wfCheck = true := by decide +kernel

theorem toyBN2over3_wfCheck : toyBN2over3.wfCheck = true := by decide +kernel

/-- Settles O15: each word by the first check that it fails. FINV with a bit of `fn` set is no command; F2INV at cell 127
does not fit where FINV does; STFE looks at its source before its address, and LDFE has an address alone; PRECOMP of
bank 2 is no command in any configuration, and MILLER is one that this configuration does not have. -/
theorem workedFaultPriority : Obligations.WorkedFaultPriority := by
  have h1 := toyBN_wfCheck
  have h2 := toyBN2over3_wfCheck
  simp only [Obligations.WorkedFaultPriority, List.forall_mem_cons]
  refine ⟨⟨?_, ?_, ?_, ?_, ?_, List.forall_mem_nil _⟩, ?_, ?_, List.forall_mem_nil _⟩
  · exact raisesAtReset_illegal h1 (e := .mbzNonzero) rfl
  · exact raisesAtReset_regrange h1 (i := .f2inv 127 0) rfl rfl (by unfold Spec.SpansFit; decide)
  · exact raisesAtReset_uninit h1 (i := .finv 127 0) rfl rfl (by unfold Spec.SpansFit; decide)
      (sp := (0, 1)) (by decide) (by decide)
  · exact raisesAtReset_uninit h1 (i := .stfe 0 0xFFF) rfl rfl (by unfold Spec.SpansFit; decide)
      (sp := (0, 1)) (by decide) (by decide)
  · obtain ⟨hpast, -⟩ := loadElement (acceptedAtReset toyBN 0x01001000) 0 0x1000 ((Config.wf_iff toyBN).2 h1)
    obtain ⟨hldfe, -⟩ := hpast (by decide +kernel)
    exact raisesAtReset_exec h1 rfl hldfe
  · exact raisesAtReset_illegal h2 (e := .mbzNonzero) rfl
  · exact raisesAtReset_unsupp h2 (i := .miller 120 0 0) rfl rfl

end Sys2Proof.Machine

/-! PROOFS. Reset (70_reset_and_hazards.md): what both resets leave, and which bytes XMEM can then hold. -/

namespace Sys2Proof.Machine

/-! ## The reset state (R411) -/

theorem kValid_resetOf (c : Config) (r : KIdx) : kValid (State.resetOf c) r = false := Vector.getElem_replicate _

theorem bankValid_resetOf (c : Config) (b : BankIdx) : bankValid (State.resetOf c) b = false :=
  Vector.getElem_replicate _

/-- What XMEM holds and what is at the ports is nothing that R411 speaks of. -/
theorem isReset_resetOf (s : State) (m : List Host.Cell) (d : Word) (es : List Event) :
    Spec.IsReset s { State.resetOf s.cfg with xmem := m, hrdata := d, inputs := es } :=
  ⟨fun i _ => cellValid_resetOf s.cfg i, kValid_resetOf s.cfg, bankValid_resetOf s.cfg, rfl, rfl, rfl, rfl, rfl, rfl,
    rfl, rfl, rfl, rfl, rfl⟩

theorem isReset_softReset (s : State) : Spec.IsReset s (softReset s) := isReset_resetOf s _ _ _

theorem isReset_hardReset (s : State) (cells : List Host.Cell) : Spec.IsReset s (hardReset s cells) :=
  isReset_resetOf s _ _ _

/-! ## The two reset events (R410, R412) -/

section
variable {s : State} {es : List Event} (hcheck : s.cfg.wfCheck = true)
include hcheck

theorem step_softReset {w : Word} (hin : s.inputs = .hostWrite 2 w :: es) (hw : w.getLsbD 31 = true) :
    step s = .next (softReset { s with inputs := es }) := by
  rw [step_hostWrite hcheck hin, hostWrite_ctrl, writeCtrl, if_pos hw]

theorem step_hardReset {cells : List Host.Cell} (hin : s.inputs = .hardReset cells :: es) :
    step s = .next (hardReset { s with inputs := es } cells) := step_of_inputs hcheck hin

end

/-! ## The bytes that a hard reset finds in XMEM (R72) -/

/-- The cells that name the bytes of `g` at the addresses below `n`. -/
def cellsBelow (g : Nat → Byte) (n : Nat) : List Host.Cell := (List.range n).map fun a => (a, g a)

/-- Naming the byte at one more address of XMEM is one more write. -/
theorem memOfCells_cellsBelow_succ (g : Nat → Byte) {n : Nat} (hn : n < Config.xbytes) :
    memOfCells (cellsBelow g (n + 1)) = memWrite (memOfCells (cellsBelow g n)) n (g n) := by
  rw [cellsBelow, List.range_succ, List.map_append, List.map_singleton, memOfCells, List.foldl_append,
    List.foldl_cons, List.foldl_nil, if_pos hn]
  rfl

theorem memRead_memOfCells_cellsBelow (g : Nat → Byte) {n : Nat} (hn : n ≤ Config.xbytes) {a : Nat} (ha : a < n) :
    memRead (memOfCells (cellsBelow g n)) a = g a := by
  induction n with
  | zero => omega
  | succ n ih =>
    rw [memOfCells_cellsBelow_succ g hn, memRead_memWrite (memWf_memOfCells _)]
    split
    · next h => rw [h]
    · exact ih (by omega) (by omega)

theorem hardReset_xmem (s : State) (cells : List Host.Cell) : (hardReset s cells).xmem = memOfCells cells := rfl

/-- An event that names every byte decides what XMEM holds. -/
theorem memRead_hardReset (s : State) (g : Nat → Byte) {a : Nat} (ha : a < Config.xbytes) :
    memRead (hardReset s (cellsBelow g Config.xbytes)).xmem a = g a := by
  rw [hardReset_xmem, memRead_memOfCells_cellsBelow g le_rfl ha]

/-! ## The obligations -/

/-- Settles O10: nothing is valid after reset, so the invariant asks only for what R411 sets. -/
theorem invariantAtReset : Obligations.InvariantAtReset :=
  ⟨fun c => ⟨isReset_resetOf (State.resetOf c) [] 0 [], rfl, inv_resetOf c rfl 0 []⟩, rfl,
    (Config.wf_iff toyBN).2 toyBN_wfCheck⟩

end Sys2Proof.Machine

namespace Sys2Proof

open Machine

/-- Settles O19: bit 31 of CTRL comes before every other condition of the write. The model's
`Machine.softReset` has the name in the other namespace. -/
theorem softReset : Obligations.SoftReset := fun s _ es hcheck hin hw =>
  ⟨_, step_softReset hcheck hin hw, isReset_softReset { s with inputs := es }, rfl, rfl⟩

/-- Settles O20: the state after the event is the reset state whatever was before, and the event may name each of the
4096 bytes. -/
theorem hardReset : Obligations.HardReset :=
  ⟨fun s cells es hcheck hin => ⟨_, step_hardReset hcheck hin, isReset_hardReset { s with inputs := es } cells,
      memWf_hardReset _ cells, rfl⟩,
    fun g => ⟨cellsBelow g Config.xbytes, fun s es hcheck hin =>
      ⟨_, step_hardReset hcheck hin, fun _ ha => memRead_hardReset { s with inputs := es } g ha⟩⟩⟩

end Sys2Proof
